-- ==== Sys2Proof/Word.lean ====
section
/-! DEFINITION. The words and plain records every other file is written in: a REG or HLUT word, one
16-bit channel, one canonical entry (20_memory.md R50), the two canonical buffers' names, and the
shapes of the operand files (10_state.md R38 to R40). -/

namespace Sys2Proof

/-- One REG word, one HLUT word or one command word (20_memory.md R50, 30_encoding.md R70). -/
abbrev Word := BitVec 32

/-- One byte of the platform's byte mapping of REG (20_memory.md R52); the block itself has no bytes. -/
abbrev Byte := BitVec 8

/-- One channel of a canonical entry, an unsigned 16-bit integer (40_codec.md R117). -/
abbrev Chan := BitVec 16

/-- One 64-bit coefficient register in S31.32 (00_scope.md R12, 10_state.md R38). -/
abbrev Coef := BitVec 64

/-- One canonical entry: three channels (00_scope.md R13, 20_memory.md R50). -/
structure Entry where
  r : Chan
  g : Chan
  b : Chan
  deriving DecidableEq, Repr, Inhabited

/-- The two canonical buffers (10_state.md R41). -/
inductive ClutId where
  | clut0
  | clut1
  deriving DecidableEq, Repr

/-- Nine like things: the shape of `M[0..8]` and `EC[0..8]` (10_state.md R38, R39). -/
structure Nine (α : Type) where
  c0 : α
  c1 : α
  c2 : α
  c3 : α
  c4 : α
  c5 : α
  c6 : α
  c7 : α
  c8 : α
  deriving DecidableEq, Repr

/-- Three like things: the shape of `PRE[0..2]` and `POST[0..2]` (10_state.md R40). -/
structure Three (α : Type) where
  k0 : α
  k1 : α
  k2 : α
  deriving DecidableEq, Repr

/-- 1.0 in S31.32, the `ONE` of 00_scope.md R12. -/
def ONE : Nat := 2 ^ 32

end Sys2Proof
end

