-- ==== Sys2Proof/Config.lean ====
section
/-! DEFINITION. What an implementation fixes: the parameters of 00_scope.md R9 and the profile record of
42_topology.md R182, as types whose values are launch data (`State.params`, log entry 2); and the free
values, which are constants with no body (log entry 3). The reference values are in
Machine/Reference.lean. -/

namespace Sys2Proof

/-- `CTM_IN_REPR`: how a negative S31.32 input is held (40_codec.md R93). -/
inductive CtmRepr where
  | twos
  | signmag
  deriving DecidableEq, Repr

/-- The family mapping a profile selects (42_topology.md R182, R195 to R201). -/
inductive Family where
  | i9xx
  | i965
  | chv
  | ilk
  | ivb
  | glk
  | icl
  deriving DecidableEq, Repr

/-- `CFMT`, the coefficient format of a profile (40_codec.md R91, R92). -/
inductive CoefFormat where
  | none
  | fpSm
  | fixS312
  deriving DecidableEq, Repr

/-- One profile record (42_topology.md R182). `degammaTests` and `gammaTests` (bit 0: entries must not
decrease within a channel; bit 1: the channels of an entry must be equal) and the two lengths are read
by the host's Validator only (60_exceptions.md R252). -/
structure Profile where
  name : String
  family : Family
  degammaLen : Nat
  gammaLen : Nat
  degammaTests : BitVec 2
  gammaTests : BitVec 2
  cfmt : CoefFormat
  maxMag : Nat
  limCsc : Bool
  readback : Bool
  deriving DecidableEq, Repr

/-- The table lengths (00_scope.md R9), source entries of each shape: `L8_LEN`, `I10P6_LEN`, `P10_LEN`, the two sizes
of `S10_SIZES` by the bit `SZ` that selects them, `MS_LEN`, `MONO_LEN`, `DP10_LEN`, `DP14_LEN`. -/
structure TableLens where
  l8 : Nat
  i10p6 : Nat
  p10 : Nat
  s10Sz0 : Nat
  s10Sz1 : Nat
  ms : Nat
  mono : Nat
  dp10 : Nat
  dp14 : Nat
  deriving DecidableEq, Repr

/-- The launch parameters (00_scope.md R9, 70_reset_and_hazards.md R262). `NGEN` is the number of records
of `profiles` (log entry 2). How the rules' numerals follow a length other than its default is log entry 7. -/
structure Params where
  ctmInRepr : CtmRepr
  profiles : List Profile
  lrRatio : BitVec 32
  postoffLim : BitVec 13
  tables : TableLens
  clutCap : Nat
  hlutCap : Nat
  deriving DecidableEq, Repr

/-- `NGEN`, the number of generation tags with a profile (00_scope.md R9). -/
def Params.ngen (p : Params) : Nat := p.profiles.length

/-- FREE VALUE (log entry 3): the entry a canonical buffer holds at an index nothing has written since
reset (10_state.md R45, 93_implementation_defined.md U3), as a function of the power-up, the buffer and
the index, so that reads of it stay idempotent (20_memory.md R54). -/
opaque Config.unwrittenEntry : Nat → ClutId → Nat → Entry

/-- FREE VALUE (log entry 3): the same for a word of `HLUT`. -/
opaque Config.unwrittenWord : Nat → Nat → Word

/-- FREE VALUE (log entry 20): what `ERR_EXPECTED` receives when a table does not fit a buffer, which no rule states, as
a function of the capacity, of the length that does not fit and of the length register the operation reads, if any. -/
opaque Config.misfitExpected : Nat → Nat → Option Word → Word

/-- FREE VALUE (log entry 20): the same for `ERR_ACTUAL`. -/
opaque Config.misfitActual : Nat → Nat → Option Word → Word

end Sys2Proof
end

