-- ==== Sys2Proof/Syntax.lean ====
section
/-! DEFINITION. The whole syntax: the fields of a command word (30_encoding.md R70), the LUT shapes (R72,
R73) and one constructor of `Instr` per row of the opcode map (R76). -/

namespace Sys2Proof

/-- `SZ` of shape S10: the hardware half size, 512 entries (0) or 1024 (1) (30_encoding.md R73). -/
inductive HalfSize where
  | h512
  | h1024
  deriving DecidableEq, Repr

/-- `HALF` of shape S10: the low half (0) or the high half (1) of the shared table (30_encoding.md R73). -/
inductive Half where
  | lo
  | hi
  deriving DecidableEq, Repr

/-- `W` of shape DP: 10 bits (0) or 14 bits (1) per channel (30_encoding.md R73). -/
inductive DpWidth where
  | w10
  | w14
  deriving DecidableEq, Repr

/-- A LUT hardware layout with its argument (41_lut_transcoder.md R130; 30_encoding.md R72, R73). -/
inductive LutShape where
  | l8
  | i10p6
  | p10
  | s10 (sz : HalfSize) (half : Half)
  | ms124
  | mono16
  | dp (w : DpWidth)
  deriving DecidableEq, Repr

/-- The `OP` field's six values (30_encoding.md R71). -/
inductive OpCode where
  | ctmenc
  | ctmdec
  | lutenc
  | lutdec
  | toposel
  | lutcmp
  deriving DecidableEq, Repr

/-- The fields of a command word, high to low (30_encoding.md R70). -/
structure CommandFields where
  op : BitVec 8
  shape : BitVec 4
  arg : BitVec 4
  rsvHi : BitVec 7
  ident : BitVec 1
  rsvLo : BitVec 8
  deriving DecidableEq, Repr

/-- The instructions: one constructor per row of spec/opcode_table.json (30_encoding.md R76). `ident` is the
`ID` bit (R74). -/
inductive Instr where
  | ctmenc
  | ctmdec
  | lutencL8 (ident : Bool)
  | lutencI10p6 (ident : Bool)
  | lutencP10 (ident : Bool)
  | lutencS10 (sz : HalfSize) (half : Half) (ident : Bool)
  | lutencMs124 (ident : Bool)
  | lutencMono16 (ident : Bool)
  | lutencDp (w : DpWidth) (ident : Bool)
  | lutdecL8
  | lutdecI10p6
  | lutdecP10
  | lutdecS10 (sz : HalfSize) (half : Half)
  | lutdecMs124
  | lutdecMono16
  | lutdecDp (w : DpWidth)
  | toposel
  | lutcmp
  deriving DecidableEq, Repr

end Sys2Proof
end

