-- ==== Sys2Proof/WellFormed.lean ====
section
/-! DEFINITION. Which terms are well formed: the fields of a command word, by the five tests of
30_encoding.md R75 stated on the fields themselves, and the launch parameters. Every term of `Instr` is
well formed by its type: each operand is one of the values the encoding admits. -/

namespace Sys2Proof

/-- Test (1) of R75: both reserved fields are 0. -/
def CommandFields.reservedClear (f : CommandFields) : Bool := f.rsvHi == 0 && f.rsvLo == 0

/-- Test (2) of R75: `OP` is one of the six codes of R71. -/
def CommandFields.opKnown (f : CommandFields) : Bool :=
  f.op == 0x01 || f.op == 0x02 || f.op == 0x10 || f.op == 0x11 || f.op == 0x20 || f.op == 0x21

/-- `OP` is LUTENC or LUTDEC. -/
def CommandFields.opIsLut (f : CommandFields) : Bool := f.op == 0x10 || f.op == 0x11

/-- Test (3) of R75: `SHAPE` and `ARG` are 0 unless `OP` is LUTENC or LUTDEC. -/
def CommandFields.operandAllowed (f : CommandFields) : Bool :=
  f.opIsLut || (f.shape == 0 && f.arg == 0)

/-- Test (4) of R75: `ID` is 0 unless `OP` is LUTENC. -/
def CommandFields.identAllowed (f : CommandFields) : Bool := f.op == 0x10 || f.ident == 0

/-- Test (5) of R75: for LUTENC and LUTDEC, `SHAPE` is 0 to 6 and the `ARG` bits the shape does not define
are 0 (R72, R73): bits [19:18] for S10 (shape 3), bits [19:17] for DP (shape 6), all four otherwise. -/
def CommandFields.shapeArgDefined (f : CommandFields) : Bool :=
  !f.opIsLut ||
    (f.shape.toNat ≤ 6 &&
      (f.arg == 0 || (f.shape == 3 && f.arg.toNat < 4) || (f.shape == 6 && f.arg.toNat < 2)))

/-- The five tests of R75 together. -/
def CommandFields.wellFormed (f : CommandFields) : Bool :=
  f.reservedClear && f.opKnown && f.operandAllowed && f.identAllowed && f.shapeArgDefined

/-- A profile's `MAXMAG` is the one its coefficient format has (40_codec.md R91, 42_topology.md R182). -/
def Profile.maxMagFits (p : Profile) : Bool :=
  match p.cfmt with
  | .none => p.maxMag == 0
  | .fpSm => p.maxMag == 4
  | .fixS312 => p.maxMag == 8

/-- At most sixteen tags: `GEN` has four bits (10_state.md R24). -/
def Params.tagsFit (p : Params) : Bool := p.profiles.length ≤ 16

/-- Every profile's `MAXMAG` fits its format. -/
def Params.magnitudesFit (p : Params) : Bool := p.profiles.all Profile.maxMagFits

/-- A length register and `ERR_EXPECTED` can hold the capacity of a canonical buffer (10_state.md R31, 43_equality.md
R232). -/
def Params.clutCapFits (p : Params) : Bool := p.clutCap < 2 ^ 32

/-- `HLEN` can hold the capacity of `HLUT` (10_state.md R31). -/
def Params.hlutCapFits (p : Params) : Bool := p.hlutCap < 2 ^ 32

/-- A table length has a first and a last entry, so that the ramp and the down-sampling divide by no zero
(41_lut_transcoder.md R134, R135), and a length register can hold twice it and the extra max word. -/
def tableLenFits (n : Nat) : Bool := 2 ≤ n && n < 2 ^ 31

/-- The table lengths make sense, and every pick of MS124 is a source entry: the last is 1024 * 255
(41_lut_transcoder.md R146; log entry 7). -/
def Params.tablesFit (p : Params) : Bool :=
  let len := p.tables
  [len.l8, len.i10p6, len.p10, len.s10Sz0, len.s10Sz1, len.ms, len.mono, len.dp10, len.dp14].all tableLenFits &&
    decide (1024 * 255 < len.ms)

/-- A profile flags limited-range CSC support only where its family's mapping reports the compression in
`TOPO.LIMCOMP`, families F_IVB and F_GLK (42_topology.md R197, R199 to R201, R203; log entry 11). -/
def Profile.limCscFits (p : Profile) : Bool := !p.limCsc || p.family == .ivb || p.family == .glk

/-- Every profile's `LIMCSC` fits its family. -/
def Params.limCscFits (p : Params) : Bool := p.profiles.all Profile.limCscFits

/-- The launch parameters make sense together. That no operation reaches beyond a capacity is no premise: every
operation checks it (20_memory.md R57). -/
def Params.wellFormed (p : Params) : Bool :=
  p.tagsFit && p.magnitudesFit && p.limCscFits && p.clutCapFits && p.hlutCapFits && p.tablesFit

end Sys2Proof
end

