-- ==== Sys2Proof/Decode.lean ====
section
/-! DEFINITION. The decoder of 30_encoding.md R75 (total on any 32-bit word, rejecting by name), the encoder
written from the match column of R76, the opcode map itself, and the listing syntax of R78 and R79. -/

namespace Sys2Proof

/-! ### The decoder (R70 to R75) -/

/-- Why a word selects no row: the first of the five tests of R75 that fails. -/
inductive DecodeError where
  | reservedBits
  | unknownOp
  | operandOnPlainOp
  | identOnNonEncode
  | shapeOrArg
  deriving DecidableEq, Repr

/-- The fields of a command word (R70). -/
def fieldsOf (w : Word) : CommandFields where
  op := w.extractLsb' 24 8
  shape := w.extractLsb' 20 4
  arg := w.extractLsb' 16 4
  rsvHi := w.extractLsb' 9 7
  ident := w.extractLsb' 8 1
  rsvLo := w.extractLsb' 0 8

/-- The six `OP` values (R71). -/
def opCodeOf (op : BitVec 8) : Option OpCode :=
  if op = 0x01 then some .ctmenc
  else if op = 0x02 then some .ctmdec
  else if op = 0x10 then some .lutenc
  else if op = 0x11 then some .lutdec
  else if op = 0x20 then some .toposel
  else if op = 0x21 then some .lutcmp
  else none

/-- The shape a `SHAPE` and an `ARG` field name (R72, R73); none for a shape code above 6 or a nonzero
`ARG` bit the shape does not define. -/
def lutShapeOf (shape arg : BitVec 4) : Option LutShape :=
  let bit0 := arg.getLsbD 0
  let bit1 := arg.getLsbD 1
  let only (used : Nat) (sh : LutShape) : Option LutShape :=
    if arg.toNat < 2 ^ used then some sh else none
  if shape = 0 then only 0 .l8
  else if shape = 1 then only 0 .i10p6
  else if shape = 2 then only 0 .p10
  else if shape = 3 then
    only 2 (.s10 (if bit0 then .h1024 else .h512) (if bit1 then .hi else .lo))
  else if shape = 4 then only 0 .ms124
  else if shape = 5 then only 0 .mono16
  else if shape = 6 then only 1 (.dp (if bit0 then .w14 else .w10))
  else none

/-- The LUTENC row of a shape (R76). -/
def lutencOf (ident : Bool) : LutShape → Instr
  | .l8 => .lutencL8 ident
  | .i10p6 => .lutencI10p6 ident
  | .p10 => .lutencP10 ident
  | .s10 sz half => .lutencS10 sz half ident
  | .ms124 => .lutencMs124 ident
  | .mono16 => .lutencMono16 ident
  | .dp w => .lutencDp w ident

/-- The LUTDEC row of a shape (R76). -/
def lutdecOf : LutShape → Instr
  | .l8 => .lutdecL8
  | .i10p6 => .lutdecI10p6
  | .p10 => .lutdecP10
  | .s10 sz half => .lutdecS10 sz half
  | .ms124 => .lutdecMs124
  | .mono16 => .lutdecMono16
  | .dp w => .lutdecDp w

/-- The row of an `OP` that takes no shape (R71, R76). -/
def plainOf : OpCode → Option Instr
  | .ctmenc => some .ctmenc
  | .ctmdec => some .ctmdec
  | .toposel => some .toposel
  | .lutcmp => some .lutcmp
  | .lutenc => none
  | .lutdec => none

/-- Decoding of the fields: the five tests of R75 in their order, the first failing one named. -/
def decodeFields (f : CommandFields) : Except DecodeError Instr :=
  if f.rsvHi ≠ 0 ∨ f.rsvLo ≠ 0 then .error .reservedBits
  else
    match opCodeOf f.op with
    | none => .error .unknownOp
    | some op =>
      if (plainOf op).isSome ∧ (f.shape ≠ 0 ∨ f.arg ≠ 0) then .error .operandOnPlainOp
      else if op ≠ .lutenc ∧ f.ident ≠ 0 then .error .identOnNonEncode
      else
        match plainOf op with
        | some i => .ok i
        | none =>
          match lutShapeOf f.shape f.arg with
          | none => .error .shapeOrArg
          | some sh => .ok (if op = .lutenc then lutencOf (f.ident == 1) sh else lutdecOf sh)

/-- The decoder: total on any 32-bit word (R75). -/
def decode (w : Word) : Except DecodeError Instr := decodeFields (fieldsOf w)

/-- The instruction the decoder reads from an instruction whose bits are `w`, as spec/opcode_table.json
numbers them. A command is one 32-bit word and has no bytes (R70, 20_memory.md R52), so the word goes to
the decoder as it is; the bits above `nbits` are 0. -/
def decodeTableWord (nbits w : Nat) : Option Instr :=
  (decode (BitVec.ofNat 32 (w % 2 ^ nbits))).toOption

/-! ### The encoder (R76) -/

/-- The bit `SZ` [16] of S10 (R73). -/
def HalfSize.bit : HalfSize → Word
  | .h512 => 0x00000000
  | .h1024 => 0x00010000

/-- The bit `HALF` [17] of S10 (R73). -/
def Half.bit : Half → Word
  | .lo => 0x00000000
  | .hi => 0x00020000

/-- The bit `W` [16] of DP (R73). -/
def DpWidth.bit : DpWidth → Word
  | .w10 => 0x00000000
  | .w14 => 0x00010000

/-- The bit `ID` [8] (R74). -/
def identBit (ident : Bool) : Word := if ident then 0x00000100 else 0x00000000

/-- The command word of an instruction: the row's match value with its fields put in (R76). -/
def encode : Instr → Word
  | .ctmenc => 0x01000000
  | .ctmdec => 0x02000000
  | .lutencL8 ident => 0x10000000 ||| identBit ident
  | .lutencI10p6 ident => 0x10100000 ||| identBit ident
  | .lutencP10 ident => 0x10200000 ||| identBit ident
  | .lutencS10 sz half ident => 0x10300000 ||| half.bit ||| sz.bit ||| identBit ident
  | .lutencMs124 ident => 0x10400000 ||| identBit ident
  | .lutencMono16 ident => 0x10500000 ||| identBit ident
  | .lutencDp w ident => 0x10600000 ||| w.bit ||| identBit ident
  | .lutdecL8 => 0x11000000
  | .lutdecI10p6 => 0x11100000
  | .lutdecP10 => 0x11200000
  | .lutdecS10 sz half => 0x11300000 ||| half.bit ||| sz.bit
  | .lutdecMs124 => 0x11400000
  | .lutdecMono16 => 0x11500000
  | .lutdecDp w => 0x11600000 ||| w.bit
  | .toposel => 0x20000000
  | .lutcmp => 0x21000000

/-! ### The opcode map (R76) -/

/-- One row of the opcode map: a word `w` selects it when `w &&& mask = pattern`. -/
structure OpcodeRow where
  mnemonic : String
  pattern : Word
  mask : Word
  deriving DecidableEq, Repr

/-- The row of each instruction (R76). -/
def rowOf : Instr → OpcodeRow
  | .ctmenc => ⟨"CTMENC", 0x01000000, 0xFFFFFFFF⟩
  | .ctmdec => ⟨"CTMDEC", 0x02000000, 0xFFFFFFFF⟩
  | .lutencL8 _ => ⟨"LUTENC.L8", 0x10000000, 0xFFFFFEFF⟩
  | .lutencI10p6 _ => ⟨"LUTENC.I10P6", 0x10100000, 0xFFFFFEFF⟩
  | .lutencP10 _ => ⟨"LUTENC.P10", 0x10200000, 0xFFFFFEFF⟩
  | .lutencS10 _ _ _ => ⟨"LUTENC.S10", 0x10300000, 0xFFFCFEFF⟩
  | .lutencMs124 _ => ⟨"LUTENC.MS124", 0x10400000, 0xFFFFFEFF⟩
  | .lutencMono16 _ => ⟨"LUTENC.MONO16", 0x10500000, 0xFFFFFEFF⟩
  | .lutencDp _ _ => ⟨"LUTENC.DP", 0x10600000, 0xFFFEFEFF⟩
  | .lutdecL8 => ⟨"LUTDEC.L8", 0x11000000, 0xFFFFFFFF⟩
  | .lutdecI10p6 => ⟨"LUTDEC.I10P6", 0x11100000, 0xFFFFFFFF⟩
  | .lutdecP10 => ⟨"LUTDEC.P10", 0x11200000, 0xFFFFFFFF⟩
  | .lutdecS10 _ _ => ⟨"LUTDEC.S10", 0x11300000, 0xFFFCFFFF⟩
  | .lutdecMs124 => ⟨"LUTDEC.MS124", 0x11400000, 0xFFFFFFFF⟩
  | .lutdecMono16 => ⟨"LUTDEC.MONO16", 0x11500000, 0xFFFFFFFF⟩
  | .lutdecDp _ => ⟨"LUTDEC.DP", 0x11600000, 0xFFFEFFFF⟩
  | .toposel => ⟨"TOPOSEL", 0x20000000, 0xFFFFFFFF⟩
  | .lutcmp => ⟨"LUTCMP", 0x21000000, 0xFFFFFFFF⟩

/-- A word selects a row (R76). -/
def OpcodeRow.selects (row : OpcodeRow) (w : Word) : Bool := w &&& row.mask == row.pattern

/-! ### The listing syntax (R78, R79) -/

/-- The size suffix of S10 (R78). -/
def HalfSize.suffix : HalfSize → String
  | .h512 => ".512"
  | .h1024 => ".1024"

/-- The half suffix of S10 (R78). -/
def Half.suffix : Half → String
  | .lo => ".LO"
  | .hi => ".HI"

/-- The width suffix of DP (R78). -/
def DpWidth.suffix : DpWidth → String
  | .w10 => ".10"
  | .w14 => ".14"

/-- The shape with its suffixes, in the fixed order size, half, width (R78). -/
def LutShape.spelling : LutShape → String
  | .l8 => "L8"
  | .i10p6 => "I10P6"
  | .p10 => "P10"
  | .s10 sz half => "S10" ++ sz.suffix ++ half.suffix
  | .ms124 => "MS124"
  | .mono16 => "MONO16"
  | .dp w => "DP" ++ w.suffix

/-- Every shape with every argument (R72, R73). -/
def LutShape.all : List LutShape :=
  [.l8, .i10p6, .p10, .s10 .h512 .lo, .s10 .h512 .hi, .s10 .h1024 .lo, .s10 .h1024 .hi, .ms124, .mono16,
    .dp .w10, .dp .w14]

/-- The listing of a command (R78): the mnemonic, its shape arguments, and `.ID` where bit 8 is set. -/
def Instr.spelling : Instr → String
  | .ctmenc => "CTMENC"
  | .ctmdec => "CTMDEC"
  | .lutencL8 ident => lutenc .l8 ident
  | .lutencI10p6 ident => lutenc .i10p6 ident
  | .lutencP10 ident => lutenc .p10 ident
  | .lutencS10 sz half ident => lutenc (.s10 sz half) ident
  | .lutencMs124 ident => lutenc .ms124 ident
  | .lutencMono16 ident => lutenc .mono16 ident
  | .lutencDp w ident => lutenc (.dp w) ident
  | .lutdecL8 => lutdec .l8
  | .lutdecI10p6 => lutdec .i10p6
  | .lutdecP10 => lutdec .p10
  | .lutdecS10 sz half => lutdec (.s10 sz half)
  | .lutdecMs124 => lutdec .ms124
  | .lutdecMono16 => lutdec .mono16
  | .lutdecDp w => lutdec (.dp w)
  | .toposel => "TOPOSEL"
  | .lutcmp => "LUTCMP"
where
  lutenc (sh : LutShape) (ident : Bool) : String :=
    "LUTENC." ++ sh.spelling ++ (if ident then ".ID" else "")
  lutdec (sh : LutShape) : String := "LUTDEC." ++ sh.spelling

/-- Every instruction, once. -/
def Instr.all : List Instr :=
  [.ctmenc, .ctmdec] ++ LutShape.all.map (lutencOf false) ++ LutShape.all.map (lutencOf true) ++
    LutShape.all.map lutdecOf ++ [.toposel, .lutcmp]

/-- The one pseudo-instruction: `LUTID.<shape>` is another spelling of `LUTENC.<shape>.ID` (R79). -/
def pseudoSpellings : List (String × Instr) :=
  LutShape.all.map fun sh => ("LUTID." ++ sh.spelling, lutencOf true sh)

/-- The instruction a listing line spells; none for any other text, such as `LUTENC.S10` without its
suffixes (R79). -/
def assemble (text : String) : Option Instr :=
  ((Instr.all.map fun i => (i.spelling, i)) ++ pseudoSpellings).lookup text

end Sys2Proof
end

