-- ==== Sys2Proof/Machine/Bits.lean ====
section
/-! DEFINITION. Putting a field into a word (00_scope.md R11): every layout the rules give is an OR of lanes, each
a field shifted to its place, as the rules themselves write it. -/

namespace Sys2Proof

/-- The word of `w` bits with the field `x` at bit `pos` and zeros elsewhere: `x << pos`. -/
def lane (w : Nat) {k : Nat} (x : BitVec k) (pos : Nat) : BitVec w := x.setWidth w <<< pos

/-- The word of `w` bits with the flag `b` at bit `pos` and zeros elsewhere. -/
def flag (w : Nat) (b : Bool) (pos : Nat) : BitVec w := lane w (BitVec.ofBool b) pos

end Sys2Proof
end

