-- ==== Sys2Proof/Machine/OperandFiles.lean ====
section
/-! DEFINITION. Access to the operand files by index and all together (10_state.md R38 to R40). -/

namespace Sys2Proof

namespace Nine

variable {α β : Type}

/-- The file with every element `a`. -/
def fill (a : α) : Nine α := ⟨a, a, a, a, a, a, a, a, a⟩

/-- Element `i`. -/
def get (x : Nine α) : Fin 9 → α
  | 0 => x.c0
  | 1 => x.c1
  | 2 => x.c2
  | 3 => x.c3
  | 4 => x.c4
  | 5 => x.c5
  | 6 => x.c6
  | 7 => x.c7
  | 8 => x.c8

/-- The file with element `i` replaced by `a`. -/
def set (x : Nine α) (i : Fin 9) (a : α) : Nine α :=
  match i with
  | 0 => { x with c0 := a }
  | 1 => { x with c1 := a }
  | 2 => { x with c2 := a }
  | 3 => { x with c3 := a }
  | 4 => { x with c4 := a }
  | 5 => { x with c5 := a }
  | 6 => { x with c6 := a }
  | 7 => { x with c7 := a }
  | 8 => { x with c8 := a }

/-- The file with `f` applied to every element: the nine are treated independently and identically
(40_codec.md R90). -/
def map (f : α → β) (x : Nine α) : Nine β :=
  ⟨f x.c0, f x.c1, f x.c2, f x.c3, f x.c4, f x.c5, f x.c6, f x.c7, f x.c8⟩

/-- The elements in index order. -/
def toList (x : Nine α) : List α := [x.c0, x.c1, x.c2, x.c3, x.c4, x.c5, x.c6, x.c7, x.c8]

/-- Nine flags as nine bits, bit `i` from element `i` (the layout of `SAT`, 10_state.md R30). -/
def toBits (x : Nine Bool) : BitVec 9 :=
  flag 9 x.c8 8 ||| flag 9 x.c7 7 ||| flag 9 x.c6 6 ||| flag 9 x.c5 5 ||| flag 9 x.c4 4 |||
    flag 9 x.c3 3 ||| flag 9 x.c2 2 ||| flag 9 x.c1 1 ||| flag 9 x.c0 0

/-- All nine values, when every one is there: all nine words are examined before anything is written
(60_exceptions.md R247). -/
def sequence (x : Nine (Option α)) : Option (Nine α) :=
  match x.c0, x.c1, x.c2, x.c3, x.c4, x.c5, x.c6, x.c7, x.c8 with
  | some a0, some a1, some a2, some a3, some a4, some a5, some a6, some a7, some a8 =>
    some ⟨a0, a1, a2, a3, a4, a5, a6, a7, a8⟩
  | _, _, _, _, _, _, _, _, _ => none

end Nine

namespace Three

variable {α : Type}

/-- The file with every element `a`. -/
def fill (a : α) : Three α := ⟨a, a, a⟩

/-- Element `k`. -/
def get (x : Three α) : Fin 3 → α
  | 0 => x.k0
  | 1 => x.k1
  | 2 => x.k2

/-- The file with element `k` replaced by `a`. -/
def set (x : Three α) (k : Fin 3) (a : α) : Three α :=
  match k with
  | 0 => { x with k0 := a }
  | 1 => { x with k1 := a }
  | 2 => { x with k2 := a }

end Three

end Sys2Proof
end

