-- ==== Sys2Proof/Machine/Reference.lean ====
section
/-! DEFINITION. The values the spec gives its parameters: the table lengths and defaults of 00_scope.md R9 and
the reference profile table of 42_topology.md R183. -/

namespace Sys2Proof

/-- The defaults of the table lengths (00_scope.md R9). -/
def TableLens.reference : TableLens where
  l8 := 256
  i10p6 := 129
  p10 := 1024
  s10Sz0 := 512
  s10Sz1 := 1024
  ms := 262145
  mono := 33
  dp10 := 257
  dp14 := 65

/-- The reference profile table, tags 0 to 7 in order (42_topology.md R183). -/
def Profile.reference : List Profile :=
  [{ name := "I9XX", family := .i9xx, degammaLen := 0, gammaLen := 256, degammaTests := 0,
     gammaTests := 0, cfmt := .none, maxMag := 0, limCsc := false, readback := false },
   { name := "I965", family := .i965, degammaLen := 0, gammaLen := 129, degammaTests := 0,
     gammaTests := 1, cfmt := .none, maxMag := 0, limCsc := false, readback := false },
   { name := "CHV", family := .chv, degammaLen := 65, gammaLen := 257, degammaTests := 1,
     gammaTests := 1, cfmt := .fixS312, maxMag := 8, limCsc := false, readback := true },
   { name := "ILK", family := .ilk, degammaLen := 0, gammaLen := 1024, degammaTests := 0,
     gammaTests := 0, cfmt := .none, maxMag := 0, limCsc := false, readback := false },
   { name := "IVB", family := .ivb, degammaLen := 1024, gammaLen := 1024, degammaTests := 0,
     gammaTests := 0, cfmt := .fpSm, maxMag := 4, limCsc := false, readback := true },
   { name := "BDW", family := .ivb, degammaLen := 1024, gammaLen := 1024, degammaTests := 0,
     gammaTests := 0, cfmt := .fpSm, maxMag := 4, limCsc := true, readback := true },
   { name := "GLK", family := .glk, degammaLen := 33, gammaLen := 1024, degammaTests := 3,
     gammaTests := 0, cfmt := .fpSm, maxMag := 4, limCsc := true, readback := true },
   { name := "ICL", family := .icl, degammaLen := 33, gammaLen := 262145, degammaTests := 3,
     gammaTests := 1, cfmt := .fpSm, maxMag := 4, limCsc := false, readback := true }]

/-- The defaults of the launch parameters (00_scope.md R9). -/
def Params.reference : Params where
  ctmInRepr := .twos
  profiles := Profile.reference
  lrRatio := 0xDBDBDBDB
  postoffLim := 0x101
  tables := TableLens.reference
  clutCap := 262145
  hlutCap := 2048

end Sys2Proof
end

