-- ==== Sys2Proof/Machine/State.lean ====
section
/-! DEFINITION. The state of FXC as plain data (10_state.md R20), the host's moves and read values
(70_reset_and_hazards.md R263), the reasons a step can stop, and the state after reset. -/

namespace Sys2Proof.Machine

/-- A buffer's written elements as (index, element) pairs, indices strictly rising; an index not listed has
not been written since reset and holds no value (10_state.md R41, R45). Elements are whole: the block has
no bytes (20_memory.md R50, R52). -/
abbrev Memory (α : Type) := List (Nat × α)

/-- One host move (70_reset_and_hazards.md R263): read or write a register, by word index; read or write a
buffer element. `busRead` and `busWrite` are the two register moves as they arrive through a platform's
byte mapping of REG, by byte address and number of bytes (20_memory.md R52, R53; log entry 6). -/
inductive HostMove where
  | readReg (index : Nat)
  | writeReg (index : Nat) (value : Word)
  | readClut (buffer : ClutId) (index : Nat)
  | writeClut (buffer : ClutId) (index : Nat) (value : Entry)
  | readHlut (index : Nat)
  | writeHlut (index : Nat) (value : Word)
  | busRead (address size : Nat)
  | busWrite (address : Nat) (bytes : List Byte)
  deriving DecidableEq, Repr

/-- What a host read returned (log entry 4). -/
inductive HostValue where
  | word (value : Word)
  | entry (value : Entry)
  | bytes (value : List Byte)
  deriving DecidableEq, Repr

/-- The state. The first group is the block's registers (10_state.md R23) with the widths used, then the
operand files (R38 to R40), the buffers (R41); then the launch parameters, which nothing changes (R42, log
entry 2); then the model's own fields: the power-up that free values depend on (log entry 3), the host's
pending moves (log entry 5) and the values its reads returned, latest first (log entry 4). -/
structure State where
  cmd : BitVec 32
  status : BitVec 16
  errExpected : BitVec 32
  errActual : BitVec 32
  gen : BitVec 4
  cfg : BitVec 7
  deglen : BitVec 32
  gamlen : BitVec 32
  precIn : BitVec 5
  clen0 : BitVec 32
  clen1 : BitVec 32
  hlen : BitVec 32
  hbase : BitVec 32
  sat : BitVec 25
  cmpres : BitVec 1
  cmpidx : BitVec 32
  topo : BitVec 12
  gammaMode : BitVec 32
  cscMode : BitVec 32
  cgmMode : BitVec 3
  prec : BitVec 5
  lutfmt : BitVec 18
  m : Nine Coef
  ec : Nine (BitVec 16)
  pre : Three (BitVec 13)
  post : Three (BitVec 13)
  clut0 : Memory Entry
  clut1 : Memory Entry
  hlut : Memory Word
  params : Params
  powerUp : Nat
  pending : List HostMove
  readLog : List HostValue
  deriving DecidableEq, Repr

/-- The reasons the machine stops with a fault: none. Every FXC fault is an outcome code in `STATUS` after
which the block goes on (60_exceptions.md R245, R251), and every operation terminates
(70_reset_and_hazards.md R266). -/
inductive Fault where
  deriving DecidableEq, Repr

/-- The reasons a step is refused. -/
inductive Refusal where
  /-- Raised by an arm of `exec` whose instruction has no meaning yet; no arm is left so. Safe. -/
  | notModelled (mnemonic : String)
  /-- Raised by a host access through the byte mapping of REG that is not one naturally aligned 32-bit word:
  "outside this spec; a model should refuse it" (20_memory.md R53). Safe. -/
  | nonWordBusAccess (address size : Nat)
  deriving DecidableEq, Repr

/-- How every host move and every operation ends. -/
abbrev Result := Host.Outcome State Fault Refusal

/-- The state after reset for given launch parameters and power-up: every register 0, no buffer element
written (10_state.md R45, 70_reset_and_hazards.md R260). -/
def State.resetWith (p : Params) (powerUp : Nat) : State where
  cmd := 0
  status := 0
  errExpected := 0
  errActual := 0
  gen := 0
  cfg := 0
  deglen := 0
  gamlen := 0
  precIn := 0
  clen0 := 0
  clen1 := 0
  hlen := 0
  hbase := 0
  sat := 0
  cmpres := 0
  cmpidx := 0
  topo := 0
  gammaMode := 0
  cscMode := 0
  cgmMode := 0
  prec := 0
  lutfmt := 0
  m := Nine.fill 0
  ec := Nine.fill 0
  pre := Three.fill 0
  post := Three.fill 0
  clut0 := []
  clut1 := []
  hlut := []
  params := p
  powerUp := powerUp
  pending := []
  readLog := []

/-- The state after reset with the reference parameters (00_scope.md R9, 42_topology.md R183). -/
def State.reset : State := State.resetWith Params.reference 0

end Sys2Proof.Machine
end

