-- ==== Sys2Proof/Machine/Flags.lean ====
section
/-! DEFINITION. The flag-like registers (10_state.md R43): `STATUS` and its outcome codes (R28, 60_exceptions.md
R241), `SAT` (R30), `CMPRES` (R33), and the fields of `CFG` (R25) and `TOPO` (R34). -/

namespace Sys2Proof.Machine

/-! ### `STATUS` (10_state.md R28) -/

/-- The faults of an operation, codes 2 to 6, with the information code 2 carries (60_exceptions.md R241). -/
inductive OpFault where
  | sizeMismatch (expected actual : Word)
  | incompatibleIndexedMode
  | unsupportedCombination
  | illegalCommand
  | reservedEncoding
  deriving DecidableEq, Repr

/-- `STATUS.CODE` of a completed operation (60_exceptions.md R241). -/
def codeOk : BitVec 4 := 0

/-- `STATUS.CODE` of the outcome that is no fault (60_exceptions.md R253). -/
def codeUnsupported : BitVec 4 := 1

/-- `STATUS.CODE` of each fault (60_exceptions.md R241). -/
def OpFault.code : OpFault → BitVec 4
  | .sizeMismatch _ _ => 2
  | .incompatibleIndexedMode => 3
  | .unsupportedCombination => 4
  | .illegalCommand => 5
  | .reservedEncoding => 6

/-- `STATUS.CODE`, bits [3:0]. -/
def statusCode (st : BitVec 16) : BitVec 4 := st.extractLsb' 0 4

/-- `STATUS.STICKY`, bits [15:8]. -/
def statusSticky (st : BitVec 16) : BitVec 8 := st.extractLsb' 8 8

/-- `STATUS` from its fields; bits [7:4] are zero. -/
def statusOf (sticky : BitVec 8) (code : BitVec 4) : BitVec 16 :=
  lane 16 sticky 8 ||| lane 16 code 0

/-- An operation ends with a code that is no fault: `CODE` is overwritten, `STICKY` is kept. -/
def statusFinish (code : BitVec 4) (st : BitVec 16) : BitVec 16 := statusOf (statusSticky st) code

/-- An operation ends with a fault: `CODE` is overwritten and bit 8 + code of `STATUS` is set. -/
def statusRaise (code : BitVec 4) (st : BitVec 16) : BitVec 16 :=
  statusOf (statusSticky st ||| (1#8 <<< code.toNat)) code

/-- The bits of `STATUS` that can be read as 1: `CODE`, and the sticky bits of the codes 2 to 6; bits [7:4],
8, 9 and 15 read as zero. -/
def statusReadMask : BitVec 16 := 0x7C0F

/-! ### `SAT` (10_state.md R30) -/

/-- `SAT` from `MAGSAT` [8:0] and `MANTSAT` [24:16]; bits [15:9] are zero. -/
def satOf (magSat mantSat : Nine Bool) : BitVec 25 :=
  lane 25 mantSat.toBits 16 ||| lane 25 magSat.toBits 0

/-- The bits of `SAT` that can be read as 1. -/
def satReadMask : BitVec 25 := 0x1FF01FF

/-! ### The fields of `CFG` (10_state.md R25, 42_topology.md R181) -/

/-- `CFG.HAS_DEGAMMA`, the `D` of R181. -/
def cfgDegamma (c : BitVec 7) : Bool := c.getLsbD 0

/-- `CFG.HAS_GAMMA`, the `G` of R181. -/
def cfgGamma (c : BitVec 7) : Bool := c.getLsbD 1

/-- `CFG.HAS_CTM`, the `C` of R181. -/
def cfgCtm (c : BitVec 7) : Bool := c.getLsbD 2

/-- `CFG.OUTFMT`, bits [4:3]. -/
def cfgOutFmt (c : BitVec 7) : BitVec 2 := c.extractLsb' 3 2

/-- The `Y` of R181: any YCbCr variant. -/
def cfgYcbcr (c : BitVec 7) : Bool := cfgOutFmt c != 0

/-- `CFG.LIMITED`, the `L` of R181. -/
def cfgLimited (c : BitVec 7) : Bool := c.getLsbD 5

/-- `CFG.C8`, the `X` of R181. -/
def cfgIndexed (c : BitVec 7) : Bool := c.getLsbD 6

/-! ### The fields of `TOPO` and `LUTFMT` (10_state.md R34, R37) -/

/-- `TOPO.SHAPE`, bits [3:0]. -/
def topoShape (t : BitVec 12) : BitVec 4 := t.extractLsb' 0 4

/-- `TOPO.EN_DEGAMMA`, bit 4. -/
def topoEnDegamma (t : BitVec 12) : Bool := t.getLsbD 4

/-- `TOPO.EN_PIPE_GAMMA`, bit 5. -/
def topoEnPipeGamma (t : BitVec 12) : Bool := t.getLsbD 5

/-- `TOPO.EN_PIPE_CSC`, bit 6. -/
def topoEnPipeCsc (t : BitVec 12) : Bool := t.getLsbD 6

/-- `TOPO.EN_OUT_CSC`, bit 7. -/
def topoEnOutCsc (t : BitVec 12) : Bool := t.getLsbD 7

/-- `TOPO.CSC_BEFORE_GAMMA`, bit 8. -/
def topoCscBeforeGamma (t : BitVec 12) : Bool := t.getLsbD 8

/-- `TOPO.IDENT_DEGAMMA`, bit 9. -/
def topoIdentDegamma (t : BitVec 12) : Bool := t.getLsbD 9

/-- `TOPO.LEGACY`, bit 10. -/
def topoLegacy (t : BitVec 12) : Bool := t.getLsbD 10

/-- `TOPO.LIMCOMP`, bit 11. -/
def topoLimComp (t : BitVec 12) : Bool := t.getLsbD 11

/-- `LUTFMT.GSHAPE`, bits [7:0]. -/
def lutfmtGamma (f : BitVec 18) : BitVec 8 := f.extractLsb' 0 8

/-- `LUTFMT.DSHAPE`, bits [15:8]. -/
def lutfmtDegamma (f : BitVec 18) : BitVec 8 := f.extractLsb' 8 8

/-- `LUTFMT.CFMT`, bits [17:16]. -/
def lutfmtCfmt (f : BitVec 18) : BitVec 2 := f.extractLsb' 16 2

/-- `VALID` of a shape byte, bit 7. -/
def shapeByteValid (b : BitVec 8) : Bool := b.getLsbD 7

end Sys2Proof.Machine
end

