-- ==== Sys2Proof/Machine/Ops.lean ====
section
/-! DEFINITION. The named operations over the buffers and the registers, ending an operation, and the raise of a
fault, each once. -/

namespace Sys2Proof.Machine

/-! ### Buffers as canonical lists (10_state.md R41, R45) -/

namespace Memory

variable {α : Type}

/-- The canonical form: indices strictly rising. An unlisted index holds no value, so no entry can equal
what an unlisted index holds. -/
def wf (mem : Memory α) : Bool := decide (mem.Pairwise fun x y => x.1 < y.1)

/-- The element written at `i`, if one was. -/
def lookup : Memory α → Nat → Option α
  | [], _ => none
  | (j, v) :: rest, i => if i = j then some v else lookup rest i

/-- Element `i` written with `v`. -/
def write : Memory α → Nat → α → Memory α
  | [], i, v => [(i, v)]
  | (j, u) :: rest, i, v =>
    if i < j then (i, v) :: (j, u) :: rest
    else if i = j then (i, v) :: rest
    else (j, u) :: write rest i v

/-- The elements `vals` at the indices from `start` on. -/
def listed : Nat → List α → Memory α
  | _, [] => []
  | start, v :: vs => (start, v) :: listed (start + 1) vs

/-- Elements 0, 1, ... written with `vals`; the elements beyond keep their contents (20_memory.md R58). -/
def writePrefix (mem : Memory α) (vals : List α) : Memory α :=
  listed 0 vals ++ mem.filter fun x => vals.length ≤ x.1

end Memory

/-- The canonical buffer of a name. -/
def State.clut (s : State) : ClutId → Memory Entry
  | .clut0 => s.clut0
  | .clut1 => s.clut1

/-- The state with one canonical buffer replaced. -/
def State.setClut (s : State) (b : ClutId) (mem : Memory Entry) : State :=
  match b with
  | .clut0 => { s with clut0 := mem }
  | .clut1 => { s with clut1 := mem }

/-- What a read of element `i` of a canonical buffer gives, for the host and the operations alike: 0 at or
beyond the capacity (20_memory.md R57), what was last written there, or the free value where nothing was
(10_state.md R45; log entry 3). -/
def State.readEntry (s : State) (b : ClutId) (i : Nat) : Entry :=
  if i < s.params.clutCap then
    ((s.clut b).lookup i).getD (Config.unwrittenEntry s.powerUp b i)
  else ⟨0, 0, 0⟩

/-- What a read of word `i` of `HLUT` gives, likewise. -/
def State.readHlutWord (s : State) (i : Nat) : Word :=
  if i < s.params.hlutCap then
    (s.hlut.lookup i).getD (Config.unwrittenWord s.powerUp i)
  else 0

/-- A host write of one canonical entry; ignored at or beyond the capacity (20_memory.md R57). -/
def State.writeEntry (s : State) (b : ClutId) (i : Nat) (e : Entry) : State :=
  if i < s.params.clutCap then s.setClut b ((s.clut b).write i e) else s

/-- A host write of one `HLUT` word, likewise. -/
def State.writeHlutWord (s : State) (i : Nat) (w : Word) : State :=
  if i < s.params.hlutCap then { s with hlut := s.hlut.write i w } else s

/-! ### Ending an operation (60_exceptions.md R241, R245) -/

/-- The operation ends with a code that is no fault: `STATUS.CODE` is overwritten. -/
def State.finish (s : State) (code : BitVec 4) : State :=
  { s with status := statusFinish code s.status }

/-- What `ERR_EXPECTED` receives, for the one fault that writes it (R245). -/
def OpFault.expected : OpFault → Option Word
  | .sizeMismatch e _ => some e
  | _ => none

/-- What `ERR_ACTUAL` receives, for the one fault that writes it (R245). -/
def OpFault.actual : OpFault → Option Word
  | .sizeMismatch _ a => some a
  | _ => none

/-- TAKING A FAULT, the one raise of every rule's pseudocode (R245): `STATUS.CODE`, the sticky bit 8 + code
and, for code 2, `ERR_EXPECTED` and `ERR_ACTUAL`; nothing else changes. There is no saved pc, no mode, no
vector and no handler, so there is nothing to return from (R251). -/
def State.raise (s : State) (f : OpFault) : State :=
  { s with
    status := statusRaise f.code s.status
    errExpected := f.expected.getD s.errExpected
    errActual := f.actual.getD s.errActual }

/-! ### The profile (10_state.md R24, R42) -/

/-- `PROFILE[GEN]`, where the tag has a profile. -/
def State.profile? (s : State) : Option Profile := s.params.profiles[s.gen.toNat]?

/-! ### The REG space (10_state.md R23) -/

/-- The registers of the REG space, one name per row of R23; `M[i]` is two words. -/
inductive RegName where
  | cmd
  | status
  | errExpected
  | errActual
  | gen
  | cfg
  | deglen
  | gamlen
  | precIn
  | clen0
  | clen1
  | hlen
  | hbase
  | sat
  | cmpres
  | cmpidx
  | topo
  | gammaMode
  | cscMode
  | cgmMode
  | prec
  | lutfmt
  | mLo (i : Fin 9)
  | mHi (i : Fin 9)
  | ec (i : Fin 9)
  | pre (k : Fin 3)
  | post (k : Fin 3)
  deriving DecidableEq, Repr

/-- The single registers at the indices 0x00 to 0x15 (R23). -/
def singleRegs : List RegName :=
  [.cmd, .status, .errExpected, .errActual, .gen, .cfg, .deglen, .gamlen, .precIn, .clen0, .clen1, .hlen,
    .hbase, .sat, .cmpres, .cmpidx, .topo, .gammaMode, .cscMode, .cgmMode, .prec, .lutfmt]

/-- The register at a REG index; none where R23 lists none. -/
def regAt (n : Nat) : Option RegName :=
  if n < 0x16 then singleRegs[n]?
  else if h : 0x20 ≤ n ∧ n < 0x32 then
    let i : Fin 9 := ⟨(n - 0x20) / 2, by omega⟩
    some (if (n - 0x20) % 2 = 0 then .mLo i else .mHi i)
  else if h : 0x40 ≤ n ∧ n < 0x49 then some (.ec ⟨n - 0x40, by omega⟩)
  else if h : 0x4C ≤ n ∧ n < 0x4F then some (.pre ⟨n - 0x4C, by omega⟩)
  else if h : 0x50 ≤ n ∧ n < 0x53 then some (.post ⟨n - 0x50, by omega⟩)
  else none

/-- What a host read of a register gives; bits above the width used read as zero (R23, R46), and so do the
reserved bits inside `STATUS` (R28) and `SAT` (R30). A read changes nothing (20_memory.md R54). -/
def State.getReg (s : State) : RegName → Word
  | .cmd => s.cmd
  | .status => (s.status &&& statusReadMask).setWidth 32
  | .errExpected => s.errExpected
  | .errActual => s.errActual
  | .gen => s.gen.setWidth 32
  | .cfg => s.cfg.setWidth 32
  | .deglen => s.deglen
  | .gamlen => s.gamlen
  | .precIn => s.precIn.setWidth 32
  | .clen0 => s.clen0
  | .clen1 => s.clen1
  | .hlen => s.hlen
  | .hbase => s.hbase
  | .sat => (s.sat &&& satReadMask).setWidth 32
  | .cmpres => s.cmpres.setWidth 32
  | .cmpidx => s.cmpidx
  | .topo => s.topo.setWidth 32
  | .gammaMode => s.gammaMode
  | .cscMode => s.cscMode
  | .cgmMode => s.cgmMode.setWidth 32
  | .prec => s.prec.setWidth 32
  | .lutfmt => s.lutfmt.setWidth 32
  | .mLo i => (s.m.get i).extractLsb' 0 32
  | .mHi i => (s.m.get i).extractLsb' 32 32
  | .ec i => (s.ec.get i).setWidth 32
  | .pre k => (s.pre.get k).setWidth 32
  | .post k => (s.post.get k).setWidth 32

/-- What a host write of a register other than `CMD` does: an RW register takes the bits of its width, a
register of access R ignores the write (R23, R46). A write of one word of `M[i]` changes only that half
(R38). `CMD` is stored here; that its write then runs an operation is `runCommand` (R27). -/
def State.setReg (s : State) (r : RegName) (v : Word) : State :=
  match r with
  | .cmd => { s with cmd := v }
  | .gen => { s with gen := v.setWidth 4 }
  | .cfg => { s with cfg := v.setWidth 7 }
  | .deglen => { s with deglen := v }
  | .gamlen => { s with gamlen := v }
  | .precIn => { s with precIn := v.setWidth 5 }
  | .clen0 => { s with clen0 := v }
  | .clen1 => { s with clen1 := v }
  | .hlen => { s with hlen := v }
  | .mLo i => { s with m := s.m.set i (lane 64 ((s.m.get i).extractLsb' 32 32) 32 ||| lane 64 v 0) }
  | .mHi i => { s with m := s.m.set i (lane 64 v 32 ||| lane 64 ((s.m.get i).extractLsb' 0 32) 0) }
  | .ec i => { s with ec := s.ec.set i (v.setWidth 16) }
  | .pre k => { s with pre := s.pre.set k (v.setWidth 13) }
  | .post k => { s with post := s.post.set k (v.setWidth 13) }
  | .status => s
  | .errExpected => s
  | .errActual => s
  | .hbase => s
  | .sat => s
  | .cmpres => s
  | .cmpidx => s
  | .topo => s
  | .gammaMode => s
  | .cscMode => s
  | .cgmMode => s
  | .prec => s
  | .lutfmt => s

/-- A host read of a REG index: 0 where R23 lists no register (R46, 20_memory.md R57). -/
def State.readRegIndex (s : State) (n : Nat) : Word :=
  match regAt n with
  | some r => s.getReg r
  | none => 0

/-- What a host read returned, put at the head of the read log. -/
def State.logRead (s : State) (v : HostValue) : State := { s with readLog := v :: s.readLog }

/-! ### The platform's byte mapping of REG (20_memory.md R52, R53) -/

/-- The bytes of a word, bits [7:0] at the lowest address. -/
def wordToBytes (w : Word) : List Byte :=
  [w.extractLsb' 0 8, w.extractLsb' 8 8, w.extractLsb' 16 8, w.extractLsb' 24 8]

/-- The word of four bytes, the first at the lowest address; none for another number of bytes. -/
def wordOfBytes : List Byte → Option Word
  | [b0, b1, b2, b3] => some (lane 32 b3 24 ||| lane 32 b2 16 ||| lane 32 b1 8 ||| lane 32 b0 0)
  | _ => none

/-- The REG index of a byte access of `size` bytes: word `n` is at byte `4 * n`; none unless the access is one
naturally aligned 32-bit word. -/
def busIndex (address size : Nat) : Option Nat :=
  if size = 4 ∧ address % 4 = 0 then some (address / 4) else none

end Sys2Proof.Machine
end

