-- ==== Sys2Proof/Machine/Operands.lean ====
section
/-! DEFINITION. Every operand form the rules give: the sign and magnitude of a coefficient (40_codec.md R93), the
limited-range pre-pass (R95), narrowing and widening of a channel (R117, R118), the lengths and the source
of a LUT operation (41_lut_transcoder.md R130, R133 to R135). -/

namespace Sys2Proof.Machine

/-! ### Coefficients (40_codec.md R93) -/

/-- `sgn(c)`. -/
def sgn (c : Coef) : Bool := c.msb

/-- `mag(c)`, an unsigned integer of at most 2^63. -/
def mag (rep : CtmRepr) (c : Coef) : Nat :=
  match rep with
  | .twos => if c.msb then 2 ^ 64 - c.toNat else c.toNat
  | .signmag => c.toNat % 2 ^ 63

/-- `join(s, a)` for a magnitude below 2^63. -/
def join (rep : CtmRepr) (neg : Bool) (a : Nat) : Coef :=
  match rep with
  | .twos => if neg then BitVec.ofNat 64 (2 ^ 64 - a) else BitVec.ofNat 64 a
  | .signmag => flag 64 neg 63 ||| BitVec.ofNat 64 (a % 2 ^ 63)

/-! ### The limited-range pre-pass (40_codec.md R94, R95) -/

/-- The bound the pre-pass clamps to, `MAXMAG * ONE - 1` (R115). -/
def prepassBound (maxMag : Nat) : Nat := maxMag * ONE - 1

/-- `limcomp(a)`, on unbounded non-negative integers. -/
def limcomp (ratio : BitVec 32) (maxMag a : Nat) : Nat :=
  ((min a (prepassBound maxMag) >>> 2) * ratio.toNat) >>> 30

/-- The pre-pass runs exactly when the profile flags limited-range CSC support and the pipe requests limited
range (R94). -/
def prepassRuns (p : Profile) (cfg : BitVec 7) : Bool := p.limCsc && cfgLimited cfg

/-! ### Channels (40_codec.md R117, R118) -/

/-- `narrow_p(v) = v[15 : 16-p]`: the low bits are dropped, with no rounding. -/
def narrow (p : Nat) (v : Chan) : BitVec p := v.extractLsb' (16 - p) p

/-- `widen_p(x) = x << (16 - p)`: the low bits are zero. -/
def widen (p : Nat) (x : BitVec p) : Chan := x.setWidth 16 <<< (16 - p)

/-! ### LUT shapes and lengths (41_lut_transcoder.md R130)

Each length is the parameter of 00_scope.md R9 whose default the rules write as a numeral (log entry 7). -/

/-- `H`, the entries of one half of shape S10 (R143): the size `SZ` selects. -/
def halfEntries (len : TableLens) : HalfSize → Nat
  | .h512 => len.s10Sz0
  | .h1024 => len.s10Sz1

/-- The entries of shape DP (R154). -/
def dpEntries (len : TableLens) : DpWidth → Nat
  | .w10 => len.dp10
  | .w14 => len.dp14

/-- `p`, the channel width of shape DP (R153). -/
def dpBits : DpWidth → Nat
  | .w10 => 10
  | .w14 => 14

/-- `need` of a LUTENC: the shape's source length, H for S10 (R130, R133). -/
def lutNeed (len : TableLens) : LutShape → Nat
  | .l8 => len.l8
  | .i10p6 => len.i10p6
  | .p10 => len.p10
  | .s10 sz _ => halfEntries len sz
  | .ms124 => len.ms
  | .mono16 => len.mono
  | .dp w => dpEntries len w

/-- The hardware entries of a shape: the length LUTDEC gives `CLUT0` (R130). MS124 has 9 + 256 + 256 + 1 of them,
whatever its source length (R146). -/
def lutHwEntries (len : TableLens) : LutShape → Nat
  | .l8 => len.l8
  | .i10p6 => len.i10p6
  | .p10 => len.p10
  | .s10 sz _ => halfEntries len sz
  | .ms124 => 522
  | .mono16 => len.mono
  | .dp w => dpEntries len w

/-- The words of a shape: `HLEN` after LUTENC and the `HLEN` LUTDEC requires (R130). I10P6 and MS124 have two words for
every entry but the last, which has three (R139, R147). -/
def lutWords (len : TableLens) : LutShape → Nat
  | .l8 => len.l8
  | .i10p6 => 2 * (len.i10p6 - 1) + 3
  | .p10 => len.p10
  | .s10 sz _ => halfEntries len sz
  | .ms124 => 2 * 521 + 3
  | .mono16 => len.mono
  | .dp w => 2 * dpEntries len w

/-- `HBASE` after LUTENC: where the half begins in the shared table for S10, 0 for every other shape (R143,
10_state.md R31). -/
def lutBase (len : TableLens) : LutShape → Nat
  | .s10 sz .hi => halfEntries len sz
  | _ => 0

/-- `CLEN0` is a length the shape accepts: exactly `need`, or for S10 any length from 1 (R132, R133). -/
def lengthAccepted (len : TableLens) (sh : LutShape) (n : Nat) : Bool :=
  match sh with
  | .s10 _ _ => n != 0
  | _ => n == lutNeed len sh

/-- `HLUT` can hold the shape's words (20_memory.md R57). -/
def State.tableFits (s : State) (sh : LutShape) : Bool := lutWords s.params.tables sh ≤ s.params.hlutCap

/-- `CLUT0` can hold the shape's hardware entries (20_memory.md R57). -/
def State.entriesFit (s : State) (sh : LutShape) : Bool := lutHwEntries s.params.tables sh ≤ s.params.clutCap

/-- The fault of a table that does not fit the buffer it is in or is to be written to: SIZE_MISMATCH (20_memory.md R57,
10_state.md R31), with two lengths no rule states (log entry 20). -/
def misfit (capacity length : Nat) (register : Option Word) : OpFault :=
  .sizeMismatch (Config.misfitExpected capacity length register) (Config.misfitActual capacity length register)

/-! ### The source of a LUTENC (41_lut_transcoder.md R134, R135) -/

/-- Entry `i` of the identity ramp of `n` entries: 0 at index 0 and 0xFFFF at index n - 1 (R135). -/
def rampEntry (n i : Nat) : Entry :=
  let v : Chan := BitVec.ofNat 16 (i * 0xFFFF / (n - 1))
  ⟨v, v, v⟩

/-- N: `CLEN0`, or with `ID` = 1 the shape's own source length, H for S10 (R135). -/
def State.sourceLen (s : State) (sh : LutShape) (ident : Bool) : Nat :=
  if ident then lutNeed s.params.tables sh else s.clen0.toNat

/-- `src(i)`: `CLUT0[i]`, or with `ID` = 1 the identity ramp, for which `CLUT0` is not read (R135,
30_encoding.md R74). -/
def State.source (s : State) (sh : LutShape) (ident : Bool) (i : Nat) : Entry :=
  if ident then rampEntry (lutNeed s.params.tables sh) i else s.readEntry .clut0 i

/-- `idx(i)`, the down-sampling of S10: floor division, the product taken exactly (R134). -/
def downsample (n h i : Nat) : Nat := i * (n - 1) / (h - 1)

end Sys2Proof.Machine
end

