-- ==== Sys2Proof/Machine/Codec.lean ====
section
/-! DEFINITION. The Fixed-Point Codec: the two coefficient formats and the meanings of CTMENC and CTMDEC
(40_codec.md). -/

namespace Sys2Proof.Machine

/-! ### FP_SM (40_codec.md R96 to R102) -/

/-- The six exponent bands, named by the real value of their top (R97). -/
inductive Band where
  | toEighth
  | toQuarter
  | toHalf
  | toOne
  | toTwo
  | toFour
  deriving DecidableEq, Repr

/-- The FP_SM magnitude clamp (R96): one raw unit below 4.0. -/
def fpBound : Nat := 4 * ONE - 1

/-- The band of a clamped, unrounded magnitude (R97). -/
def bandOf (a : Nat) : Band :=
  if a < 0x20000000 then .toEighth
  else if a < 0x40000000 then .toQuarter
  else if a < 0x80000000 then .toHalf
  else if a < 0x100000000 then .toOne
  else if a < 0x200000000 then .toTwo
  else .toFour

/-- `fbits`, the fraction bits the 9-bit mantissa has in the band (R97). -/
def Band.fbits : Band → Nat
  | .toEighth => 12
  | .toQuarter => 11
  | .toHalf => 10
  | .toOne => 9
  | .toTwo => 8
  | .toFour => 7

/-- `EXP`, the band's 3-bit exponent code (R97). -/
def Band.code : Band → BitVec 3
  | .toEighth => 3
  | .toQuarter => 2
  | .toHalf => 1
  | .toOne => 0
  | .toTwo => 7
  | .toFour => 6

/-- The band an exponent code names; none for the codes 4 and 5, which no band has (R102). -/
def bandOfCode (c : BitVec 3) : Option Band :=
  if c = 3 then some .toEighth
  else if c = 2 then some .toQuarter
  else if c = 1 then some .toHalf
  else if c = 0 then some .toOne
  else if c = 7 then some .toTwo
  else if c = 6 then some .toFour
  else none

/-- `m0`, the rounded mantissa before its clamp, of a clamped magnitude: half an ULP is added, then the low
bits are dropped (R99). -/
def fpRounded (a : Nat) : Nat :=
  let f := (bandOf a).fbits
  (a + 2 ^ (31 - f)) >>> (32 - f)

/-- `MANT`, the mantissa clamped to 511 (R100). -/
def fpMantissa (a : Nat) : Nat := min (fpRounded a) 511

/-- `enc_fp(s, a_in)` (R101), with the word layout of R98. -/
def encFp (neg : Bool) (aIn : Nat) : BitVec 16 :=
  let a := min aIn fpBound
  BitVec.ofNat 16 (neg.toNat * 2 ^ 15 + (bandOf a).code.toNat * 2 ^ 12 + fpMantissa a * 2 ^ 3)

/-- The mantissa clamp changed the mantissa from 512 to 511: `MANTSAT[i]` (R100). -/
def fpMantSat (aIn : Nat) : Bool := fpRounded (min aIn fpBound) == 512

/-- The magnitude clamp changed the coefficient: `MAGSAT[i]`, tested on the magnitude before any pre-pass
(R96). -/
def fpMagSat (mag : Nat) : Bool := fpBound < mag

/-- `dec_fp(w)` (R102): sign and magnitude, none for a reserved exponent code; bits [2:0] are ignored. -/
def decFp (w : BitVec 16) : Option (Bool × Nat) :=
  (bandOfCode (w.extractLsb' 12 3)).map fun band =>
    (w.msb, (w.extractLsb' 3 9).toNat <<< (32 - band.fbits))

/-! ### FIX_S312 (40_codec.md R103 to R106) -/

/-- The rounding constant, half of the least significant fraction bit (R103). -/
def s312Half : Nat := 2 ^ 19

/-- The FIX_S312 clamp bound (R104). -/
def s312Bound : Nat := 8 * ONE - 1

/-- `enc_s312(s, a_in)` (R106): the rounding constant is added first, then the sum is clamped. -/
def encS312 (neg : Bool) (aIn : Nat) : BitVec 16 :=
  BitVec.ofNat 16 (neg.toNat * 2 ^ 15 + min (aIn + s312Half) s312Bound >>> 20)

/-- `MAGSAT[i]` (R104): the clamp after rounding acted, or the pre-pass ran and its clamp changed the
magnitude. -/
def s312MagSat (prepass : Bool) (maxMag mag aIn : Nat) : Bool :=
  decide (s312Bound < aIn + s312Half) || (prepass && decide (prepassBound maxMag < mag))

/-- `dec_s312(w)` (R106): every word is valid. -/
def decS312 (w : BitVec 16) : Bool × Nat := (w.msb, (w.extractLsb' 0 15).toNat <<< 20)

/-! ### One coefficient -/

/-- The input magnitude of a coefficient: `mag(c)`, or `limcomp` of it when the pre-pass runs (R94, R96,
R103). -/
def State.inputMag (s : State) (p : Profile) (c : Coef) : Nat :=
  let a := mag s.params.ctmInRepr c
  if prepassRuns p s.cfg then limcomp s.params.lrRatio p.maxMag a else a

/-- `MAGSAT[i]` under FP_SM. -/
def State.fpMagSatOf (s : State) (c : Coef) : Bool := fpMagSat (mag s.params.ctmInRepr c)

/-- `MAGSAT[i]` under FIX_S312. -/
def State.s312MagSatOf (s : State) (p : Profile) (c : Coef) : Bool :=
  s312MagSat (prepassRuns p s.cfg) p.maxMag (mag s.params.ctmInRepr c) (s.inputMag p c)

/-- The state after a successful CTMENC: the words, the offsets of R107, `SAT` and the code OK, written
together (R110). -/
def State.storeMatrix (s : State) (p : Profile) (words : Nine (BitVec 16)) (magSat mantSat : Nine Bool) :
    State :=
  ({ s with
    ec := words
    pre := Three.fill 0
    post := Three.fill (if prepassRuns p s.cfg then s.params.postoffLim else 0)
    sat := satOf magSat mantSat }).finish codeOk

/-! ### The meanings -/

/-- CTMENC (R110). -/
def execCtmenc (s : State) : Result :=
  match s.profile? with
  | none => .next (s.raise .unsupportedCombination)
  | some p =>
    match p.cfmt with
    | .none => .next (s.raise .unsupportedCombination)
    | .fpSm =>
      .next (s.storeMatrix p (s.m.map fun c => encFp (sgn c) (s.inputMag p c))
        (s.m.map s.fpMagSatOf) (s.m.map fun c => fpMantSat (s.inputMag p c)))
    | .fixS312 =>
      .next (s.storeMatrix p (s.m.map fun c => encS312 (sgn c) (s.inputMag p c))
        (s.m.map (s.s312MagSatOf p)) (Nine.fill false))

/-- The coefficient a decoded sign and magnitude stand for (R93, R111). -/
def State.joined (s : State) (x : Bool × Nat) : Coef := join s.params.ctmInRepr x.1 x.2

/-- CTMDEC (R111). -/
def execCtmdec (s : State) : Result :=
  match s.profile? with
  | none => .next (s.finish codeUnsupported)
  | some p =>
    if p.readback then
      match p.cfmt with
      | .none => .next (s.finish codeUnsupported)
      | .fpSm =>
        match (s.ec.map decFp).sequence with
        | none => .next (s.raise .reservedEncoding)
        | some t => .next ({ s with m := t.map s.joined }.finish codeOk)
      | .fixS312 => .next ({ s with m := (s.ec.map decS312).map s.joined }.finish codeOk)
    else .next (s.finish codeUnsupported)

end Sys2Proof.Machine
end

