-- ==== Sys2Proof/Machine/Equality.lean ====
section
/-! DEFINITION. The LUT comparator: LUTCMP (43_equality.md). -/

namespace Sys2Proof.Machine

/-- `tol(p) = 0xFFFF >> p` (R231). -/
def tolerance (p : BitVec 5) : Nat := 0xFFFF >>> p.toNat

/-- Two channel values match: their absolute difference is at most the tolerance (R231). -/
def chanMatch (t : Nat) (x y : Chan) : Bool :=
  max x.toNat y.toNat - min x.toNat y.toNat ≤ t

/-- Two entries match when all three channels do (R231). -/
def entryMatch (t : Nat) (x y : Entry) : Bool :=
  chanMatch t x.r y.r && chanMatch t x.g y.g && chanMatch t x.b y.b

/-- The lowest index below `n` at which the two buffers mismatch (R232, R233). -/
def State.firstMismatch (s : State) (t n : Nat) : Option Nat :=
  (List.range n).find? fun i => !entryMatch t (s.readEntry .clut0 i) (s.readEntry .clut1 i)

/-- The result of a comparison, written with the code OK (R232, 10_state.md R33). -/
def State.storeCompare (s : State) (equal : BitVec 1) (idx : Word) : State :=
  { s with cmpres := equal, cmpidx := idx }.finish codeOk

/-- LUTCMP (R232). -/
def execLutcmp (s : State) : Result :=
  let n0 := s.clen0.toNat
  let n1 := s.clen1.toNat
  if s.params.clutCap < n0 ∨ s.params.clutCap < n1 then
    .next (s.raise (.sizeMismatch (BitVec.ofNat 32 s.params.clutCap) (BitVec.ofNat 32 (max n0 n1))))
  else if n0 ≠ n1 then .next (s.storeCompare 0 0xFFFFFFFF)
  else
    match s.firstMismatch (tolerance s.precIn) n0 with
    | some i => .next (s.storeCompare 0 (BitVec.ofNat 32 i))
    | none => .next (s.storeCompare 1 0)

end Sys2Proof.Machine
end

