-- ==== Sys2Proof/Machine/LutWords.lean ====
section
/-! DEFINITION. The hardware words of every LUT shape, packed from canonical entries and unpacked again
(41_lut_transcoder.md R136 to R155). Lanes are independent (R159); unpacking reads only the bits named and
ignores every other (R158). -/

namespace Sys2Proof.Machine

/-! ### Words of one entry -/

/-- The channel `hi :: lo`, where `lo` has `pos` bits (00_scope.md R11). -/
def joinLanes {j k : Nat} (pos : Nat) (hi : BitVec j) (lo : BitVec k) : Chan := lane 16 hi pos ||| lane 16 lo 0

/-- `w8(e)` (R136). -/
def w8 (e : Entry) : Word := lane 32 (narrow 8 e.r) 16 ||| lane 32 (narrow 8 e.g) 8 ||| lane 32 (narrow 8 e.b) 0

/-- The entry of an L8 word (R138). -/
def ofW8 (w : Word) : Entry :=
  ⟨widen 8 (w.extractLsb' 16 8), widen 8 (w.extractLsb' 8 8), widen 8 (w.extractLsb' 0 8)⟩

/-- `ldw(e)` of I10P6, the low bytes (R139). -/
def ldwI (e : Entry) : Word :=
  lane 32 (e.r.extractLsb' 0 8) 16 ||| lane 32 (e.g.extractLsb' 0 8) 8 ||| lane 32 (e.b.extractLsb' 0 8) 0

/-- `udw(e)` of I10P6, the high bytes (R139). -/
def udwI (e : Entry) : Word :=
  lane 32 (e.r.extractLsb' 8 8) 16 ||| lane 32 (e.g.extractLsb' 8 8) 8 ||| lane 32 (e.b.extractLsb' 8 8) 0

/-- The entry of an I10P6 pair (R141). -/
def ofPairI (lo hi : Word) : Entry :=
  ⟨joinLanes 8 (hi.extractLsb' 16 8) (lo.extractLsb' 16 8), joinLanes 8 (hi.extractLsb' 8 8) (lo.extractLsb' 8 8),
    joinLanes 8 (hi.extractLsb' 0 8) (lo.extractLsb' 0 8)⟩

/-- The three full-width "max" words of I10P6 and MS124 (R139, R147). -/
def maxWords (e : Entry) : List Word := [e.r.setWidth 32, e.g.setWidth 32, e.b.setWidth 32]

/-- The entry of the three max words (R141, R149). -/
def ofMaxWords (r g b : Word) : Entry :=
  ⟨r.extractLsb' 0 16, g.extractLsb' 0 16, b.extractLsb' 0 16⟩

/-- `w10(e)` (R142). -/
def w10 (e : Entry) : Word :=
  lane 32 (narrow 10 e.r) 20 ||| lane 32 (narrow 10 e.g) 10 ||| lane 32 (narrow 10 e.b) 0

/-- The entry of a P10 or S10 word (R144). -/
def ofW10 (w : Word) : Entry :=
  ⟨widen 10 (w.extractLsb' 20 10), widen 10 (w.extractLsb' 10 10), widen 10 (w.extractLsb' 0 10)⟩

/-- `ldw12(e)` of MS124, the low 6 bits of each channel (R147). -/
def ldw12 (e : Entry) : Word :=
  lane 32 (e.r.extractLsb' 0 6) 24 ||| lane 32 (e.g.extractLsb' 0 6) 14 ||| lane 32 (e.b.extractLsb' 0 6) 4

/-- `udw12(e)` of MS124, the top 10 bits of each channel (R147). -/
def udw12 (e : Entry) : Word :=
  lane 32 (e.r.extractLsb' 6 10) 20 ||| lane 32 (e.g.extractLsb' 6 10) 10 ||| lane 32 (e.b.extractLsb' 6 10) 0

/-- `dec12(lo, hi)` (R149). -/
def ofPair12 (lo hi : Word) : Entry :=
  ⟨joinLanes 6 (hi.extractLsb' 20 10) (lo.extractLsb' 24 6), joinLanes 6 (hi.extractLsb' 10 10) (lo.extractLsb' 14 6),
    joinLanes 6 (hi.extractLsb' 0 10) (lo.extractLsb' 4 6)⟩

/-- The MONO16 word: the green channel (R150). -/
def wMono (e : Entry) : Word := e.g.setWidth 32

/-- The entry of a MONO16 word: the stored channel in all three (R152). -/
def ofMono (w : Word) : Entry :=
  let v : Chan := w.extractLsb' 0 16
  ⟨v, v, v⟩

/-- `ldwp(e)` of DP: green and blue (R153). -/
def ldwDp (p : Nat) (e : Entry) : Word := lane 32 (narrow p e.g) 16 ||| lane 32 (narrow p e.b) 0

/-- `udwp(e)` of DP: red (R153). -/
def udwDp (p : Nat) (e : Entry) : Word := lane 32 (narrow p e.r) 0

/-- The entry of a DP pair (R155). -/
def ofPairDp (p : Nat) (lo hi : Word) : Entry :=
  ⟨widen p (hi.extractLsb' 0 p), widen p (lo.extractLsb' 16 p), widen p (lo.extractLsb' 0 p)⟩

/-! ### Whole tables -/

/-- The words of one entry after another, each entry giving an even and an odd word. -/
def packPairs (lo hi : Entry → Word) (entries : List Entry) : List Word :=
  entries.flatMap fun e => [lo e, hi e]

/-- The source indices MS124 encodes as pairs: superfine, fine, coarse (R146, R148). -/
def ms124Picks : List Nat :=
  List.range 9 ++ (List.range 256).map (fun j => 8 * (j + 1)) ++ (List.range 256).map (fun j => 1024 * j)

/-- The source index of the max entry of MS124, the final one (R146). -/
def ms124Max (len : TableLens) : Nat := len.ms - 1

/-- `encode_lut`: the words of a table, from the table lengths, the source length N and the source entries (R137, R140,
R142, R143, R148, R151, R154). -/
def packLut (len : TableLens) (sh : LutShape) (n : Nat) (src : Nat → Entry) : List Word :=
  match sh with
  | .l8 => (List.range len.l8).map fun i => w8 (src i)
  | .i10p6 => packPairs ldwI udwI ((List.range (len.i10p6 - 1)).map src) ++ maxWords (src (len.i10p6 - 1))
  | .p10 => (List.range len.p10).map fun i => w10 (src i)
  | .s10 sz _ => (List.range (halfEntries len sz)).map fun i => w10 (src (downsample n (halfEntries len sz) i))
  | .ms124 => packPairs ldw12 udw12 (ms124Picks.map src) ++ maxWords (src (ms124Max len))
  | .mono16 => (List.range len.mono).map fun i => wMono (src i)
  | .dp w => packPairs (ldwDp (dpBits w)) (udwDp (dpBits w)) ((List.range (dpEntries len w)).map src)

/-- The decode direction: the entries of a table, from its words (R138, R141, R144, R145, R149, R152, R155). -/
def unpackLut (len : TableLens) (sh : LutShape) (word : Nat → Word) : List Entry :=
  match sh with
  | .l8 => (List.range len.l8).map fun i => ofW8 (word i)
  | .i10p6 =>
    let pairs := len.i10p6 - 1
    ((List.range pairs).map fun i => ofPairI (word (2 * i)) (word (2 * i + 1))) ++
      [ofMaxWords (word (2 * pairs)) (word (2 * pairs + 1)) (word (2 * pairs + 2))]
  | .p10 => (List.range len.p10).map fun i => ofW10 (word i)
  | .s10 sz _ => (List.range (halfEntries len sz)).map fun i => ofW10 (word i)
  | .ms124 =>
    ((List.range 521).map fun i => ofPair12 (word (2 * i)) (word (2 * i + 1))) ++
      [ofMaxWords (word 1042) (word 1043) (word 1044)]
  | .mono16 => (List.range len.mono).map fun i => ofMono (word i)
  | .dp w => (List.range (dpEntries len w)).map fun i => ofPairDp (dpBits w) (word (2 * i)) (word (2 * i + 1))

end Sys2Proof.Machine
end

