-- ==== Sys2Proof/Machine/LutDecode.lean ====
section
/-! DEFINITION. LUTDEC: the shared operation and one meaning per shape (41_lut_transcoder.md). -/

namespace Sys2Proof.Machine

/-- The state after a LUTDEC that ends OK: the entries in the prefix of `CLUT0`, with `CLEN0`, the hardware's length
(20_memory.md R59), and the code OK, all written together (R138 to R155). -/
def State.storeEntries (s : State) (sh : LutShape) (entries : List Entry) : State :=
  { s with
    clut0 := Memory.writePrefix s.clut0 entries
    clen0 := BitVec.ofNat 32 (lutHwEntries s.params.tables sh) }.finish codeOk

/-- LUTDEC for a shape: the length check of R133, the capacity checks of 10_state.md R31 and 20_memory.md R57, then the
entries. All words are read before any entry is written (00_scope.md R14). -/
def decodeLut (sh : LutShape) (s : State) : Result :=
  let len := s.params.tables
  if s.hlen.toNat ≠ lutWords len sh then
    .next (s.raise (.sizeMismatch (BitVec.ofNat 32 (lutWords len sh)) s.hlen))
  else if !s.tableFits sh then
    .next (s.raise (misfit s.params.hlutCap (lutWords len sh) (some s.hlen)))
  else if !s.entriesFit sh then
    .next (s.raise (misfit s.params.clutCap (lutHwEntries len sh) (some s.hlen)))
  else .next (s.storeEntries sh (unpackLut len sh s.readHlutWord))

/-- LUTDEC.L8 (R138). -/
def execLutdecL8 (s : State) : Result := decodeLut .l8 s

/-- LUTDEC.I10P6 (R141). -/
def execLutdecI10p6 (s : State) : Result := decodeLut .i10p6 s

/-- LUTDEC.P10 (R144). -/
def execLutdecP10 (s : State) : Result := decodeLut .p10 s

/-- LUTDEC.S10 (R145); `HALF` is ignored. -/
def execLutdecS10 (sz : HalfSize) (half : Half) (s : State) : Result := decodeLut (.s10 sz half) s

/-- LUTDEC.MS124 (R149). -/
def execLutdecMs124 (s : State) : Result := decodeLut .ms124 s

/-- LUTDEC.MONO16 (R152). -/
def execLutdecMono16 (s : State) : Result := decodeLut .mono16 s

/-- LUTDEC.DP (R155). -/
def execLutdecDp (w : DpWidth) (s : State) : Result := decodeLut (.dp w) s

end Sys2Proof.Machine
end

