-- ==== Sys2Proof/Machine/LutEncode.lean ====
section
/-! DEFINITION. LUTENC: the shared operation and one meaning per shape (41_lut_transcoder.md). -/

namespace Sys2Proof.Machine

/-- The state after a LUTENC that ends OK: the table in the prefix of `HLUT`, with `HLEN`, `HBASE` and the code OK,
all written together (R137 to R154). -/
def State.storeTable (s : State) (sh : LutShape) (words : List Word) : State :=
  { s with
    hlut := Memory.writePrefix s.hlut words
    hlen := BitVec.ofNat 32 (lutWords s.params.tables sh)
    hbase := BitVec.ofNat 32 (lutBase s.params.tables sh) }.finish codeOk

/-- The length check of R133 fails; it is not made with `ID` = 1. -/
def State.sourceRejected (s : State) (sh : LutShape) (ident : Bool) : Bool :=
  !ident && (decide (s.params.clutCap < s.clen0.toNat) || !lengthAccepted s.params.tables sh s.clen0.toNat)

/-- LUTENC for a shape: the length check of R133, the capacity check of 20_memory.md R57, then the table. All source
entries are read before any word is written (00_scope.md R14). -/
def encodeLut (sh : LutShape) (ident : Bool) (s : State) : Result :=
  let len := s.params.tables
  if s.sourceRejected sh ident then
    .next (s.raise (.sizeMismatch (BitVec.ofNat 32 (lutNeed len sh)) s.clen0))
  else if s.tableFits sh then
    .next (s.storeTable sh (packLut len sh (s.sourceLen sh ident) (s.source sh ident)))
  else
    .next (s.raise (misfit s.params.hlutCap (lutWords len sh) (if ident then none else some s.clen0)))

/-- LUTENC.L8 (R137). -/
def execLutencL8 (ident : Bool) (s : State) : Result := encodeLut .l8 ident s

/-- LUTENC.I10P6 (R140). -/
def execLutencI10p6 (ident : Bool) (s : State) : Result := encodeLut .i10p6 ident s

/-- LUTENC.P10 (R142). -/
def execLutencP10 (ident : Bool) (s : State) : Result := encodeLut .p10 ident s

/-- LUTENC.S10 (R143). -/
def execLutencS10 (sz : HalfSize) (half : Half) (ident : Bool) (s : State) : Result :=
  encodeLut (.s10 sz half) ident s

/-- LUTENC.MS124 (R148). -/
def execLutencMs124 (ident : Bool) (s : State) : Result := encodeLut .ms124 ident s

/-- LUTENC.MONO16 (R151). -/
def execLutencMono16 (ident : Bool) (s : State) : Result := encodeLut .mono16 ident s

/-- LUTENC.DP (R154). -/
def execLutencDp (w : DpWidth) (ident : Bool) (s : State) : Result := encodeLut (.dp w) ident s

end Sys2Proof.Machine
end

