-- ==== Sys2Proof/Machine/Topology.lean ====
section
/-! DEFINITION. The Topology Selector: the seven family mappings, the order of precedence, the result registers
and the meaning of TOPOSEL (42_topology.md). -/

namespace Sys2Proof.Machine

/-! ### The result (42_topology.md R189 to R193) -/

/-- The shape labels of `TOPO.SHAPE` (R190). -/
inductive TopoShape where
  | noGamma
  | legacy8
  | interp10p6
  | g10CscBefore
  | g10CscAfter
  | split
  | multiSeg
  | cgm
  deriving DecidableEq, Repr

/-- The label's code (R190, 10_state.md R34). -/
def TopoShape.code : TopoShape → BitVec 4
  | .noGamma => 0
  | .legacy8 => 1
  | .interp10p6 => 2
  | .g10CscBefore => 3
  | .g10CscAfter => 4
  | .split => 5
  | .multiSeg => 6
  | .cgm => 7

/-- What a mapping yields (R189): unlisted outputs are 0. `gammaShape` and `degammaShape` are the tables to be
encoded, none where no LUT of the class is. -/
structure Topology where
  shape : TopoShape := .noGamma
  enDegamma : Bool := false
  enPipeGamma : Bool := false
  enPipeCsc : Bool := false
  enOutCsc : Bool := false
  before : Bool := false
  identDegamma : Bool := false
  legacy : Bool := false
  limComp : Bool := false
  gammaMode : Word := 0
  cscMode : Word := 0
  cgmMode : BitVec 3 := 0
  gammaShape : Option LutShape := none
  degammaShape : Option LutShape := none
  cfmt : CoefFormat := .none
  deriving DecidableEq, Repr

/-- `TOPO` of a result (R189, 10_state.md R34). -/
def Topology.word (t : Topology) : BitVec 12 :=
  lane 12 t.shape.code 0 ||| flag 12 t.enDegamma 4 ||| flag 12 t.enPipeGamma 5 |||
    flag 12 t.enPipeCsc 6 ||| flag 12 t.enOutCsc 7 ||| flag 12 t.before 8 |||
    flag 12 t.identDegamma 9 ||| flag 12 t.legacy 10 ||| flag 12 t.limComp 11

/-- `PREC` of a result, computed and never stored in the profile (R192). -/
def Topology.precision (t : Topology) : BitVec 5 :=
  if !t.enPipeGamma then 0
  else if t.legacy then 8
  else
    match t.shape with
    | .interp10p6 => 16
    | .multiSeg => 16
    | .cgm => 10
    | .g10CscBefore => 10
    | _ => 0

/-- The `SHAPE` and `ARG[1:0]` fields of a shape (30_encoding.md R72, R73), as the low six bits of a shape byte
(10_state.md R37). -/
def shapeFields : LutShape → BitVec 6
  | .l8 => 0x00
  | .i10p6 => 0x01
  | .p10 => 0x02
  | .s10 .h512 .lo => 0x03
  | .s10 .h1024 .lo => 0x13
  | .s10 .h512 .hi => 0x23
  | .s10 .h1024 .hi => 0x33
  | .ms124 => 0x04
  | .mono16 => 0x05
  | .dp .w10 => 0x06
  | .dp .w14 => 0x16

/-- A shape byte: `VALID :: 0 :: ARG[1:0] :: SHAPE[3:0]`, 0 when no LUT of the class is to be encoded
(10_state.md R37). -/
def shapeByte : Option LutShape → BitVec 8
  | none => 0
  | some sh => 0x80 ||| lane 8 (shapeFields sh) 0

/-- `LUTFMT.CFMT` (10_state.md R37). -/
def cfmtCode : CoefFormat → BitVec 2
  | .none => 0
  | .fpSm => 1
  | .fixS312 => 2

/-- `LUTFMT` of a result (R189, 10_state.md R37). -/
def Topology.lutfmt (t : Topology) : BitVec 18 :=
  lane 18 (cfmtCode t.cfmt) 16 ||| lane 18 (shapeByte t.degammaShape) 8 |||
    lane 18 (shapeByte t.gammaShape) 0

/-! ### The family mappings (42_topology.md R195 to R201) -/

/-- The inputs of the generation rules (R181, R188). -/
structure Request where
  d : Bool
  g : Bool
  c : Bool
  y : Bool
  l : Bool
  deriving DecidableEq, Repr

/-- F_I9XX (R195). -/
def mapI9xx (q : Request) : Option Topology :=
  if q.d || q.g || q.c || q.y then none else some {}

/-- F_I965 (R196). -/
def mapI965 (q : Request) : Option Topology :=
  if q.d || q.c || q.y then none
  else if q.g then
    some { shape := .interp10p6, enPipeGamma := true, gammaMode := 1, gammaShape := some .i10p6 }
  else some {}

/-- F_CHV (R197). -/
def mapChv (q : Request) : Option Topology :=
  if q.y then none
  else
    some {
      shape := if q.d || q.c || q.g then .cgm else .noGamma
      enDegamma := q.d
      enPipeGamma := q.g
      enPipeCsc := q.c
      before := true
      cgmMode := flag 3 q.d 0 ||| flag 3 q.c 1 ||| flag 3 q.g 2
      gammaShape := if q.g then some (.dp .w10) else none
      degammaShape := if q.d then some (.dp .w14) else none }

/-- F_ILK (R198). -/
def mapIlk (q : Request) : Option Topology :=
  if q.d || q.c || q.y then none
  else if q.g then
    some { shape := .g10CscAfter, enPipeGamma := true, gammaMode := 1, gammaShape := some .p10 }
  else some {}

/-- F_IVB (R199). -/
def mapIvb (limCsc : Bool) (q : Request) : Option Topology :=
  let lc := q.l && limCsc
  let after := q.d || q.y || lc
  let before := !after
  some {
    shape :=
      if q.g && q.d then .split
      else if q.g then (if before then .g10CscBefore else .g10CscAfter)
      else if q.d then .g10CscAfter
      else .noGamma
    enDegamma := q.d
    enPipeGamma := q.g
    enPipeCsc := q.c || q.y || lc
    before := before
    limComp := lc
    gammaMode := if q.g && q.d then 3 else if q.g || q.d then 1 else 0
    cscMode := if before then 0x00000002 else 0
    gammaShape := if q.g then some (if q.d then .s10 .h512 .hi else .p10) else none
    degammaShape := if q.d then some (if q.g then .s10 .h512 .lo else .p10) else none }

/-- F_GLK (R200). -/
def mapGlk (limCsc : Bool) (q : Request) : Option Topology :=
  let ce := q.d || q.c || q.y || q.l
  some {
    shape := if q.g then .g10CscBefore else .noGamma
    enDegamma := ce
    enPipeGamma := q.g
    enPipeCsc := ce
    before := true
    identDegamma := ce && !q.d
    limComp := q.l && limCsc
    gammaMode := if q.g then 1 else 0
    gammaShape := if q.g then some .p10 else none
    degammaShape := if ce then some .mono16 else none }

/-- F_ICL (R201). -/
def mapIcl (q : Request) : Option Topology :=
  some {
    shape := if q.g then .multiSeg else .noGamma
    enDegamma := q.d
    enPipeGamma := q.g
    enPipeCsc := q.c
    enOutCsc := q.y || q.l
    before := true
    gammaMode := flag 32 q.d 31 ||| flag 32 q.g 30 ||| (if q.g then 3 else 0)
    cscMode := flag 32 q.c 31 ||| flag 32 (q.y || q.l) 30
    gammaShape := if q.g then some .ms124 else none
    degammaShape := if q.d then some .mono16 else none }

/-- The generation dispatch: the mapping of a family, none where the family accepts no such configuration
(R188). -/
def familyMap (f : Family) (limCsc : Bool) (q : Request) : Option Topology :=
  match f with
  | .i9xx => mapI9xx q
  | .i965 => mapI965 q
  | .chv => mapChv q
  | .ilk => mapIlk q
  | .ivb => mapIvb limCsc q
  | .glk => mapGlk limCsc q
  | .icl => mapIcl q

/-! ### Precedence (42_topology.md R184 to R188, R202) -/

/-- `LEG`: exactly a 256-entry gamma LUT, no degamma, no matrix; the test reads nothing else (R185). -/
def isLegacy (cfg : BitVec 7) (gamlen : Word) : Bool :=
  cfgGamma cfg && gamlen == 256 && !cfgDegamma cfg && !cfgCtm cfg

/-- The legacy result, the same for every tag (R186). -/
def legacyTopology : Topology :=
  { shape := .legacy8, enPipeGamma := true, legacy := true, gammaShape := some .l8 }

/-- The request `CFG` makes of the generation rules (R181). -/
def requestOf (cfg : BitVec 7) : Request :=
  { d := cfgDegamma cfg, g := cfgGamma cfg, c := cfgCtm cfg, y := cfgYcbcr cfg, l := cfgLimited cfg }

/-- `select(config, profile)`: well-formedness, then legacy, then C8, then the family mapping, first match wins
(R184, R204). -/
def select (profile : Option Profile) (cfg : BitVec 7) (gamlen : Word) : Except OpFault Topology :=
  match profile with
  | none => .error .unsupportedCombination
  | some p =>
    if cfgOutFmt cfg = 3 then .error .unsupportedCombination
    else if isLegacy cfg gamlen then .ok legacyTopology
    else if cfgIndexed cfg then .error .incompatibleIndexedMode
    else
      match familyMap p.family p.limCsc (requestOf cfg) with
      | none => .error .unsupportedCombination
      | some t => .ok { t with cfmt := p.cfmt }

/-- The six result registers and the code OK, written all together (R189, R194). -/
def State.storeTopology (s : State) (t : Topology) : State :=
  ({ s with
    topo := t.word
    gammaMode := t.gammaMode
    cscMode := t.cscMode
    cgmMode := t.cgmMode
    prec := t.precision
    lutfmt := t.lutfmt }).finish codeOk

/-- TOPOSEL (R204). -/
def execToposel (s : State) : Result :=
  match select s.profile? s.cfg s.gamlen with
  | .error f => .next (s.raise f)
  | .ok t => .next (s.storeTopology t)

end Sys2Proof.Machine
end

