-- ==== Sys2Proof/Machine/Dispatch.lean ====
section
/-! DEFINITION. One arm per instruction: the operation a command word selects (30_encoding.md R76). -/

namespace Sys2Proof.Machine

def exec (i : Instr) (s : State) : Host.Outcome State Fault Refusal :=
  match i with
  | .ctmenc => Sys2Proof.Machine.execCtmenc s
  | .ctmdec => Sys2Proof.Machine.execCtmdec s
  | .lutencL8 ident => Sys2Proof.Machine.execLutencL8 ident s
  | .lutencI10p6 ident => Sys2Proof.Machine.execLutencI10p6 ident s
  | .lutencP10 ident => Sys2Proof.Machine.execLutencP10 ident s
  | .lutencS10 sz half ident => Sys2Proof.Machine.execLutencS10 sz half ident s
  | .lutencMs124 ident => Sys2Proof.Machine.execLutencMs124 ident s
  | .lutencMono16 ident => Sys2Proof.Machine.execLutencMono16 ident s
  | .lutencDp w ident => Sys2Proof.Machine.execLutencDp w ident s
  | .lutdecL8 => Sys2Proof.Machine.execLutdecL8 s
  | .lutdecI10p6 => Sys2Proof.Machine.execLutdecI10p6 s
  | .lutdecP10 => Sys2Proof.Machine.execLutdecP10 s
  | .lutdecS10 sz half => Sys2Proof.Machine.execLutdecS10 sz half s
  | .lutdecMs124 => Sys2Proof.Machine.execLutdecMs124 s
  | .lutdecMono16 => Sys2Proof.Machine.execLutdecMono16 s
  | .lutdecDp w => Sys2Proof.Machine.execLutdecDp w s
  | .toposel => Sys2Proof.Machine.execToposel s
  | .lutcmp => Sys2Proof.Machine.execLutcmp s

end Sys2Proof.Machine
end

