-- ==== Sys2Proof/Machine/HostPort.lean ====
section
/-! DEFINITION. The host's moves (70_reset_and_hazards.md R263), performed one at a time; the write of `CMD` is
the move that runs an operation (10_state.md R27). -/

namespace Sys2Proof.Machine

/-- A host write of `CMD`: the word is stored, then the operation it encodes runs to completion; a word that
selects no row ends with ILLEGAL_COMMAND (10_state.md R27, 30_encoding.md R75, 60_exceptions.md R246). -/
def runCommand (w : Word) (s : State) : Result :=
  let stored := { s with cmd := w }
  match decode w with
  | .ok i => exec i stored
  | .error _ => .next (stored.raise .illegalCommand)

/-- A host write of a REG index: ignored where R23 lists no register (10_state.md R46, 20_memory.md R57). -/
def writeRegIndex (n : Nat) (v : Word) (s : State) : Result :=
  match regAt n with
  | some .cmd => runCommand v s
  | some r => .next (s.setReg r v)
  | none => .next s

/-- One host move (70_reset_and_hazards.md R263). A read changes nothing but the read log (20_memory.md R54). -/
def performMove (move : HostMove) (s : State) : Result :=
  match move with
  | .readReg n => .next (s.logRead (.word (s.readRegIndex n)))
  | .writeReg n v => writeRegIndex n v s
  | .readClut b i => .next (s.logRead (.entry (s.readEntry b i)))
  | .writeClut b i e => .next (s.writeEntry b i e)
  | .readHlut i => .next (s.logRead (.word (s.readHlutWord i)))
  | .writeHlut i w => .next (s.writeHlutWord i w)
  | .busRead address size =>
    match busIndex address size with
    | some n => .next (s.logRead (.bytes (wordToBytes (s.readRegIndex n))))
    | none => .refused (.nonWordBusAccess address size)
  | .busWrite address bytes =>
    match busIndex address bytes.length, wordOfBytes bytes with
    | some n, some v => writeRegIndex n v s
    | _, _ => .refused (.nonWordBusAccess address bytes.length)

/-- The listing line `WR M[i], v`: the two word writes it stands for, low word first (30_encoding.md R78,
10_state.md R38). -/
def writeCoefMoves (i : Fin 9) (v : Coef) : List HostMove :=
  [.writeReg (0x20 + 2 * i.val) (v.extractLsb' 0 32), .writeReg (0x21 + 2 * i.val) (v.extractLsb' 32 32)]

/-- The listing line `CMD x`: the host write of the command word to `CMD` (30_encoding.md R78). -/
def commandMove (i : Instr) : HostMove := .writeReg 0x00 (encode i)

end Sys2Proof.Machine
end

