-- ==== Sys2Proof/Machine/Step.lean ====
section
/-! DEFINITION. One step: the next pending host move is performed (70_reset_and_hazards.md R263, R266). FXC has no
program counter and fetches nothing (10_state.md R22); the instruction a step runs is the command word of a
pending write of `CMD` (log entry 5). -/

namespace Sys2Proof.Machine

/-- One step. With no move pending nothing happens (60_exceptions.md R248): the list of moves is exhausted and the
state is the end state of the run (70_reset_and_hazards.md R266; log entry 1). -/
def step (s : State) : Host.Outcome State Fault Refusal :=
  match s.pending with
  | [] => .next s
  | move :: rest => performMove move { s with pending := rest }

/-- The state whose next step runs the instruction of the opcode table's word `w` of `nbits` bits: a host write of
that word to `CMD` stands before the other pending moves (log entry 5). -/
def State.withFetchWord (s : State) (nbits w : Nat) : State :=
  { s with pending := .writeReg 0x00 (BitVec.ofNat 32 (w % 2 ^ nbits)) :: s.pending }

end Sys2Proof.Machine
end

