-- ==== Sys2Proof/Safety.lean ====
section
/-! DEFINITION. What claims are stated in: the invariant of the block, the launch premises of
70_reset_and_hazards.md R267, the host's duties that are predicates of the block's state (60_exceptions.md
R252; 70_reset_and_hazards.md R264, R272), and the values a claim compares. -/

namespace Sys2Proof.Machine

/-! ### Launch premises (70_reset_and_hazards.md R267) -/

/-- `NoFaultRecorded`: `STATUS.STICKY` = 0. -/
def State.noFaultRecorded (s : State) : Bool := statusSticky s.status == 0

/-- `CleanEntry`: the reset state, whatever the launch parameters, the power-up and the host's moves. -/
def State.cleanEntry (s : State) : Bool :=
  s == { State.resetWith s.params s.powerUp with pending := s.pending }

/-- `ProfileIs(T)`. -/
def State.profileIs (s : State) (table : List Profile) : Bool := s.params.profiles == table

/-- `Repr(r)`. -/
def State.reprIs (s : State) (r : CtmRepr) : Bool := s.params.ctmInRepr == r

/-! ### The invariant -/

/-- The three buffers are in canonical form. -/
def State.buffersCanonical (s : State) : Bool :=
  Memory.wf s.clut0 && Memory.wf s.clut1 && Memory.wf s.hlut

/-- No element is held at or beyond a capacity (20_memory.md R57). -/
def State.withinCapacity (s : State) : Bool :=
  (s.clut0.all fun x => x.1 < s.params.clutCap) && (s.clut1.all fun x => x.1 < s.params.clutCap) &&
    (s.hlut.all fun x => x.1 < s.params.hlutCap)

/-- `STATUS` is legal: its reserved bits are zero, its code is one of 0 to 6, and a fault code's sticky bit is set
(10_state.md R28, 60_exceptions.md R241). -/
def statusLegal (st : BitVec 16) : Bool :=
  st &&& ~~~statusReadMask == 0 && statusCode st ≤ 6 &&
    (statusCode st ≤ 1 || (statusSticky st).getLsbD (statusCode st).toNat)

/-- The bits of `SAT` outside its two fields are zero (10_state.md R30). -/
def satLegal (x : BitVec 25) : Bool := x &&& ~~~satReadMask == 0

/-- The precision the enable matrix gives, read off the bits of `TOPO` (42_topology.md R192): 0 with no gamma stage,
8 for the legacy topology, 16 for the shapes T_INTERP10P6 (2) and T_MULTISEG (6), 10 for T_CGM (7) and
T_G10_CSC_BEFORE (3), 0 otherwise. -/
def precisionOfTopo (t : BitVec 12) : Nat :=
  if !topoEnPipeGamma t then 0
  else if topoLegacy t then 8
  else if topoShape t = 2 ∨ topoShape t = 6 then 16
  else if topoShape t = 7 ∨ topoShape t = 3 then 10
  else 0

/-- `GAMMA_MODE.MODE` of a shape label: 10-bit (1) for the three single 10-bit and interpolated tables, 3 for T_SPLIT
and T_MULTISEG, 8-bit (0) otherwise (10_state.md R35, 42_topology.md R186, R195 to R201). -/
def modeOfShape (shape : BitVec 4) : Nat :=
  if shape = 2 ∨ shape = 3 ∨ shape = 4 then 1 else if shape = 5 ∨ shape = 6 then 3 else 0

/-- `LUTFMT.GSHAPE` with a gamma stage active, of a shape label: the byte of L8, I10P6, P10, S10.512.HI, MS124 or DP.10
(42_topology.md R193). -/
def gammaByteOfShape (shape : BitVec 4) : Nat :=
  if shape = 1 then 0x80
  else if shape = 2 then 0x81
  else if shape = 3 ∨ shape = 4 then 0x82
  else if shape = 5 then 0xA3
  else if shape = 6 then 0x84
  else if shape = 7 then 0x86
  else 0

/-- The three mode words agree with the enable matrix (10_state.md R35; 42_topology.md R186, R190, R195 to R201).
`GAMMA_MODE`: the mode is the label's, `POST_CSC_GAMMA_ENABLE` [30] comes with T_MULTISEG and nothing else,
`PRE_CSC_GAMMA_ENABLE` [31] only with a degamma stage, and always with one under T_MULTISEG. `CSC_MODE`:
`OUTPUT_CSC_ENABLE` [30] is `EN_OUT_CSC`, `PIPE_CSC_ENABLE` [31] only with a pipe CSC, and always with one under
T_MULTISEG, `CSC_POSITION_BEFORE_GAMMA` [1] only with `CSC_BEFORE_GAMMA` and never beside those two. `CGM_MODE` is not 0
exactly under T_CGM, and then it is the three enables. Every other bit is 0. -/
def modesLegal (topo : BitVec 12) (gammaMode cscMode : Word) (cgmMode : BitVec 3) : Bool :=
  let shape := topoShape topo
  let multiSeg := shape == 6
  gammaMode &&& 0x3FFFFFFC == 0 && cscMode &&& 0x3FFFFFFD == 0 &&
    (gammaMode.toNat % 4 == modeOfShape shape) &&
    (gammaMode.getLsbD 30 == multiSeg) &&
    (!gammaMode.getLsbD 31 || topoEnDegamma topo) &&
    (!multiSeg || gammaMode.getLsbD 31 == topoEnDegamma topo) &&
    (cscMode.getLsbD 30 == topoEnOutCsc topo) &&
    (!cscMode.getLsbD 31 || topoEnPipeCsc topo) &&
    (!multiSeg || cscMode.getLsbD 31 == topoEnPipeCsc topo) &&
    (!cscMode.getLsbD 1 || (topoCscBeforeGamma topo && cscMode == 2)) &&
    ((cgmMode != 0) == (shape == 7)) &&
    (cgmMode == 0 ||
      (cgmMode.getLsbD 0 == topoEnDegamma topo && cgmMode.getLsbD 1 == topoEnPipeCsc topo &&
        cgmMode.getLsbD 2 == topoEnPipeGamma topo))

/-- The result registers of TOPOSEL other than the mode words agree with one another (42_topology.md R190 to R193,
R208): this holds of the zeros after reset and of every result. -/
def topologyLegal (topo : BitVec 12) (prec : BitVec 5) (lutfmt : BitVec 18) : Bool :=
  topoShape topo ≤ 7 &&
    (!topoLegacy topo || topo == 0x421) &&
    (!topoLimComp topo || topoEnPipeCsc topo) &&
    (!topoIdentDegamma topo || topoEnDegamma topo) &&
    (topoShape topo != 7 || !topoEnOutCsc topo) &&
    (prec.toNat == precisionOfTopo topo) &&
    (shapeByteValid (lutfmtGamma lutfmt) == topoEnPipeGamma topo) &&
    (shapeByteValid (lutfmtDegamma lutfmt) == topoEnDegamma topo) &&
    (!topoEnPipeGamma topo || (lutfmtGamma lutfmt).toNat == gammaByteOfShape (topoShape topo)) &&
    (lutfmtCfmt lutfmt != 3)

/-- The result of a comparison: `CMPIDX` is 0 when `EQUAL` is 1 (10_state.md R33). -/
def compareLegal (cmpres : BitVec 1) (cmpidx : Word) : Bool := cmpres == 0 || cmpidx == 0

/-- `HBASE` is 0 or where a high half begins (10_state.md R31). -/
def hbaseLegal (len : TableLens) (b : Word) : Bool :=
  b == 0 || b == BitVec.ofNat 32 len.s10Sz0 || b == BitVec.ofNat 32 len.s10Sz1

/-- The invariant: what holds of the block at reset and after every host move. -/
structure Inv (s : State) : Prop where
  launch : s.params.wellFormed = true
  canonical : s.buffersCanonical = true
  capacity : s.withinCapacity = true
  status : statusLegal s.status = true
  sat : satLegal s.sat = true
  topology : topologyLegal s.topo s.prec s.lutfmt = true
  modes : modesLegal s.topo s.gammaMode s.cscMode s.cgmMode = true
  compare : compareLegal s.cmpres s.cmpidx = true
  hbase : hbaseLegal s.params.tables s.hbase = true

/-! ### The host's duties (60_exceptions.md R252, 70_reset_and_hazards.md R264, R272) -/

/-- R252(a): each requested length is the profile's, or the gamma is the legacy one. -/
def State.lengthsValidated (s : State) : Bool :=
  match s.profile? with
  | none => false
  | some p =>
    (!cfgDegamma s.cfg || s.deglen.toNat == p.degammaLen) &&
      (!cfgGamma s.cfg || s.gamlen.toNat == p.gammaLen || isLegacy s.cfg s.gamlen)

/-- R252(b): C8 is not requested together with any non-legacy LUT or any matrix. -/
def State.indexedValidated (s : State) : Bool :=
  !cfgIndexed s.cfg ||
    !(cfgDegamma s.cfg || cfgCtm s.cfg || (cfgGamma s.cfg && s.gamlen != 256))

/-- Bit 0 of the profile's tests: entries do not decrease within a channel (42_topology.md R182). -/
def entriesNonDecreasing (es : List Entry) : Bool :=
  decide (es.IsChain fun x y => x.r ≤ y.r ∧ x.g ≤ y.g ∧ x.b ≤ y.b)

/-- Bit 1 of the profile's tests: the three channels of an entry are equal (42_topology.md R182). -/
def channelsEqual (es : List Entry) : Bool := es.all fun e => e.r == e.g && e.g == e.b

/-- R252(c): the self-tests the profile declares for a table. The block never makes them. -/
def selfTestsPass (tests : BitVec 2) (es : List Entry) : Bool :=
  (!tests.getLsbD 0 || entriesNonDecreasing es) && (!tests.getLsbD 1 || channelsEqual es)

/-- R264: the result registers and buffers are those of the last command only when its code is OK. -/
def State.resultsCurrent (s : State) : Bool := statusCode s.status == codeOk

/-- R272: the source's example of when a table may be loaded ahead of the frame boundary: the old topology had no
degamma and no gamma stage active. -/
def preloadAllowed (oldTopo : BitVec 12) : Bool := !topoEnDegamma oldTopo && !topoEnPipeGamma oldTopo

/-! ### How an operation ends, as claims say it -/

/-- The operation that led from `s` to `t` ended with `code`: `STATUS` is the code, with reserved bits zero and the
sticky bits of before plus, for a fault, bit 8 + code (10_state.md R28, 60_exceptions.md R245, R253). -/
def EndsWith (s t : State) (code : Nat) : Prop :=
  t.status.toNat =
    256 * ((statusSticky s.status).toNat ||| (if 2 ≤ code then 2 ^ code else 0)) + code

/-- The operation that led from `s` to `t` ended with SIZE_MISMATCH (60_exceptions.md R242, R245): the two lengths are
recorded and nothing else but `STATUS` is changed. -/
def SizeMismatchRaised (s t : State) (expected actual : Nat) : Prop :=
  EndsWith s t 2 ∧ t.errExpected.toNat = expected ∧ t.errActual.toNat = actual ∧
    t = { s with status := t.status, errExpected := t.errExpected, errActual := t.errActual }

/-- The operation that led from `s` to `t` ended with SIZE_MISMATCH, whatever the two lengths it recorded (60_exceptions.md
R245): nothing else but `STATUS` is changed. -/
def SizeMismatchOnly (s t : State) : Prop :=
  EndsWith s t 2 ∧ t = { s with status := t.status, errExpected := t.errExpected, errActual := t.errActual }

/-- The operation ended with `code` and changed `STATUS` only (60_exceptions.md R245, R253). -/
def OnlyStatus (s t : State) (code : Nat) : Prop := EndsWith s t code ∧ t = { s with status := t.status }

/-- Writing `w` to `CMD` in `s` ends with ILLEGAL_COMMAND: the word is stored, `STATUS` records the fault and nothing
else is changed (60_exceptions.md R246). -/
def IllegalAt (w : Word) (s : State) : Prop :=
  ∃ t, performMove (.writeReg 0 w) s = .next t ∧ EndsWith s t 5 ∧ t = { s with cmd := w, status := t.status }

/-- Field `f` after the same operation from `s` and from a state with the outcomes of `o`: the operation gave it the
same value in both runs, or changed it in neither. -/
def Carried {α : Type} (f : State → α) (s o t t' : State) : Prop := f t' = f t ∨ (f t = f s ∧ f t' = f o)

/-- The codes an operation can end with (60_exceptions.md R241, R249). -/
def allowedCodes : Instr → List Nat
  | .ctmenc => [0, 4]
  | .ctmdec => [0, 1, 6]
  | .toposel => [0, 3, 4]
  | _ => [0, 2]

/-- What an operation may have changed from `s` to `t`, whatever its outcome (20_memory.md R51): everything but the
registers and the buffer named is as before. -/
def WritesOnly (i : Instr) (s t : State) : Prop :=
  match i with
  | .ctmenc => t = { s with ec := t.ec, pre := t.pre, post := t.post, sat := t.sat, status := t.status }
  | .ctmdec => t = { s with m := t.m, status := t.status }
  | .toposel =>
    t = { s with
      topo := t.topo, gammaMode := t.gammaMode, cscMode := t.cscMode, cgmMode := t.cgmMode, prec := t.prec,
      lutfmt := t.lutfmt, status := t.status }
  | .lutcmp =>
    t = { s with
      cmpres := t.cmpres, cmpidx := t.cmpidx, status := t.status, errExpected := t.errExpected,
      errActual := t.errActual }
  | .lutdecL8 | .lutdecI10p6 | .lutdecP10 | .lutdecS10 _ _ | .lutdecMs124 | .lutdecMono16 | .lutdecDp _ =>
    t = { s with
      clut0 := t.clut0, clen0 := t.clen0, status := t.status, errExpected := t.errExpected,
      errActual := t.errActual }
  | .lutencL8 _ | .lutencI10p6 _ | .lutencP10 _ | .lutencS10 _ _ _ | .lutencMs124 _ | .lutencMono16 _
  | .lutencDp _ _ =>
    t = { s with
      hlut := t.hlut, hlen := t.hlen, hbase := t.hbase, status := t.status, errExpected := t.errExpected,
      errActual := t.errActual }

/-- The host-visible registers that record an earlier operation's outcome or result and that no operation reads
(10_state.md R43; 20_memory.md R51): `s` with those of `o`. -/
def State.withOutcomeOf (s o : State) : State :=
  { s with
    status := o.status, errExpected := o.errExpected, errActual := o.errActual, sat := o.sat,
    cmpres := o.cmpres, cmpidx := o.cmpidx, topo := o.topo, gammaMode := o.gammaMode, cscMode := o.cscMode,
    cgmMode := o.cgmMode, prec := o.prec, lutfmt := o.lutfmt, hbase := o.hbase }

/-! ### The REG space, as claims say it (10_state.md R23) -/

/-- The indices R23 lists. -/
def regListed (n : Nat) : Prop :=
  n ≤ 0x15 ∨ (0x20 ≤ n ∧ n ≤ 0x31) ∨ (0x40 ≤ n ∧ n ≤ 0x48) ∨ (0x4C ≤ n ∧ n ≤ 0x4E) ∨ (0x50 ≤ n ∧ n ≤ 0x52)

/-- The bits of a register that can be read as 1: its width used, without the reserved bits inside it (R23, R28,
R30). -/
def regReadable (n : Nat) : Word :=
  if n = 0x00 ∨ n = 0x02 ∨ n = 0x03 ∨ n = 0x06 ∨ n = 0x07 ∨ n = 0x0F ∨ n = 0x11 ∨ n = 0x12 then 0xFFFFFFFF
  else if 0x09 ≤ n ∧ n ≤ 0x0C then 0xFFFFFFFF
  else if n = 0x01 then 0x00007C0F
  else if n = 0x04 then 0x0000000F
  else if n = 0x05 then 0x0000007F
  else if n = 0x08 ∨ n = 0x14 then 0x0000001F
  else if n = 0x0D then 0x01FF01FF
  else if n = 0x0E then 0x00000001
  else if n = 0x10 then 0x00000FFF
  else if n = 0x13 then 0x00000007
  else if n = 0x15 then 0x0003FFFF
  else if 0x20 ≤ n ∧ n ≤ 0x31 then 0xFFFFFFFF
  else if 0x40 ≤ n ∧ n ≤ 0x48 then 0x0000FFFF
  else if (0x4C ≤ n ∧ n ≤ 0x4E) ∨ (0x50 ≤ n ∧ n ≤ 0x52) then 0x00001FFF
  else 0

/-- The bits a host write of a register other than `CMD` changes: its width for an RW register, none for a register
of access R or an unlisted index. -/
def regWritable (n : Nat) : Word :=
  if n = 0x04 then 0x0000000F
  else if n = 0x05 then 0x0000007F
  else if n = 0x08 then 0x0000001F
  else if n = 0x06 ∨ n = 0x07 ∨ n = 0x09 ∨ n = 0x0A ∨ n = 0x0B then 0xFFFFFFFF
  else if 0x20 ≤ n ∧ n ≤ 0x31 then 0xFFFFFFFF
  else if 0x40 ≤ n ∧ n ≤ 0x48 then 0x0000FFFF
  else if (0x4C ≤ n ∧ n ≤ 0x4E) ∨ (0x50 ≤ n ∧ n ≤ 0x52) then 0x00001FFF
  else 0

/-! ### Coefficients, as claims say them (40_codec.md) -/

/-- The real value of a coefficient in units of 2^-32, with its sign (00_scope.md R12, 40_codec.md R93). -/
def coefValue (rep : CtmRepr) (c : Coef) : Int :=
  match rep with
  | .twos => c.toInt
  | .signmag => if c.getLsbD 63 then -((c.toNat % 2 ^ 63 : Nat) : Int) else ((c.toNat % 2 ^ 63 : Nat) : Int)

/-- Two naturals differ by at most `d`. -/
def within (d x y : Nat) : Prop := x ≤ y + d ∧ y ≤ x + d

/-- The magnitude CTMENC encodes: that of the coefficient, or what the limited-range pre-pass makes of it (R94, R95),
in whole-number arithmetic. -/
def encodedMagnitude (s : State) (p : Profile) (c : Coef) : Nat :=
  let a := (coefValue s.params.ctmInRepr c).natAbs
  if p.limCsc = true ∧ s.cfg.getLsbD 5 = true then
    min a (p.maxMag * 2 ^ 32 - 1) / 4 * s.params.lrRatio.toNat / 2 ^ 30
  else a

/-- One row of the band table (R97): the band holds the magnitudes from `low` up to and without `high`. -/
structure BandRow where
  low : Nat
  high : Nat
  fbits : Nat
  exp : Nat
  deriving DecidableEq, Repr

/-- The band table (R97). -/
def bandRows : List BandRow :=
  [⟨0, 0x20000000, 12, 3⟩, ⟨0x20000000, 0x40000000, 11, 2⟩, ⟨0x40000000, 0x80000000, 10, 1⟩,
    ⟨0x80000000, 0x100000000, 9, 0⟩, ⟨0x100000000, 0x200000000, 8, 7⟩,
    ⟨0x200000000, 0x400000000, 7, 6⟩]

/-- The row of the band table a magnitude lies in. -/
def InBand (row : BandRow) (a : Nat) : Prop := row ∈ bandRows ∧ row.low ≤ a ∧ a < row.high

/-- The mantissa before its clamp (R99), in whole-number arithmetic. -/
def BandRow.rounded (row : BandRow) (a : Nat) : Nat := (a + 2 ^ (31 - row.fbits)) / 2 ^ (32 - row.fbits)

/-- The magnitude after the FP_SM clamp (R96). -/
def fpClamped (a : Nat) : Nat := min a (4 * 2 ^ 32 - 1)

/-- No tag with a coefficient format is selected: there is no profile, or its format is NONE. -/
def State.NoFormat (s : State) : Prop :=
  ∀ p, s.params.profiles[s.gen.toNat]? = some p → p.cfmt = .none

/-! ### Tables, as claims say them (41_lut_transcoder.md R130) -/

/-- The columns "source entries" (H for S10), "hardware entries" and "words" of R130, for given table lengths (00_scope.md
R9). -/
def tableColumns (len : TableLens) : LutShape → Nat × Nat × Nat
  | .l8 => (len.l8, len.l8, len.l8)
  | .i10p6 => (len.i10p6, len.i10p6, 2 * (len.i10p6 - 1) + 3)
  | .p10 => (len.p10, len.p10, len.p10)
  | .s10 .h512 _ => (len.s10Sz0, len.s10Sz0, len.s10Sz0)
  | .s10 .h1024 _ => (len.s10Sz1, len.s10Sz1, len.s10Sz1)
  | .ms124 => (len.ms, 522, 1045)
  | .mono16 => (len.mono, len.mono, len.mono)
  | .dp .w10 => (len.dp10, len.dp10, 2 * len.dp10)
  | .dp .w14 => (len.dp14, len.dp14, 2 * len.dp14)

/-- The columns of R130 for the launch parameters of a state. -/
def State.columns (s : State) (sh : LutShape) : Nat × Nat × Nat := tableColumns s.params.tables sh

/-- The table of a LUTENC fits `HLUT` (20_memory.md R57). -/
def EncodeFits (s : State) (sh : LutShape) : Prop := (s.columns sh).2.2 ≤ s.params.hlutCap

/-- The words and the entries of a LUTDEC fit `HLUT` and `CLUT0` (20_memory.md R57). -/
def DecodeFits (s : State) (sh : LutShape) : Prop :=
  (s.columns sh).2.2 ≤ s.params.hlutCap ∧ (s.columns sh).2.1 ≤ s.params.clutCap

/-- The lengths of `CLUT0` a LUTENC without `ID` accepts (R132, R133). -/
def SourceAccepted (s : State) (sh : LutShape) : Prop :=
  s.clen0.toNat ≤ s.params.clutCap ∧
    match sh with
    | .s10 _ _ => 1 ≤ s.clen0.toNat
    | _ => s.clen0.toNat = (s.columns sh).1

/-- `e` is `src(i)` of a LUTENC with source length `n` (R135): `CLUT0[i]`, or the ramp entry. -/
def SourceEntry (s : State) (ident : Bool) (n i : Nat) (e : Entry) : Prop :=
  (ident = false ∧ e = s.readEntry .clut0 i) ∨
    (ident = true ∧ e.r.toNat = i * 0xFFFF / (n - 1) ∧ e.g = e.r ∧ e.b = e.r)

/-- A LUTENC ended OK with `words` words and `base` in `HBASE`, and changed nothing else but the words below `words`
(R156, 20_memory.md R51, R58). -/
def TableStored (s t : State) (words base : Nat) : Prop :=
  t = { s with hlut := t.hlut, hlen := t.hlen, hbase := t.hbase, status := t.status } ∧
    EndsWith s t 0 ∧ t.hlen.toNat = words ∧ t.hbase.toNat = base ∧
    ∀ j, words ≤ j → t.readHlutWord j = s.readHlutWord j

/-- A LUTDEC ended OK with `count` entries and changed nothing else but the entries below `count` (20_memory.md R51,
R58, R59). -/
def EntriesStored (s t : State) (count : Nat) : Prop :=
  t = { s with clut0 := t.clut0, clen0 := t.clen0, status := t.status } ∧
    EndsWith s t 0 ∧ t.clen0.toNat = count ∧
    ∀ j, count ≤ j → t.readEntry .clut0 j = s.readEntry .clut0 j

/-- The channel bits a shape keeps (R157): `p` of the narrow-widen round trip, 16 where the channel is kept whole. -/
def keptBits : LutShape → Nat
  | .l8 => 8
  | .i10p6 => 16
  | .p10 => 10
  | .s10 _ _ => 10
  | .ms124 => 16
  | .mono16 => 16
  | .dp .w10 => 10
  | .dp .w14 => 14

/-- The source index a shape picks for hardware entry `k`, with source length `n` (R134, R146). -/
def pickedIndex (len : TableLens) (sh : LutShape) (n k : Nat) : Nat :=
  match sh with
  | .s10 .h512 _ => k * (n - 1) / (len.s10Sz0 - 1)
  | .s10 .h1024 _ => k * (n - 1) / (len.s10Sz1 - 1)
  | .ms124 =>
    if k ≤ 8 then k else if k ≤ 264 then 8 * (k - 8) else if k ≤ 520 then 1024 * (k - 265) else len.ms - 1
  | _ => k

/-- The bits of word `j` that LUTENC of a shape can set (R157, R158). -/
def settableBits (len : TableLens) (sh : LutShape) (j : Nat) : Word :=
  match sh with
  | .l8 => 0x00FFFFFF
  | .i10p6 => if j < 2 * (len.i10p6 - 1) then 0x00FFFFFF else 0x0000FFFF
  | .p10 => 0x3FFFFFFF
  | .s10 _ _ => 0x3FFFFFFF
  | .ms124 => if 1042 ≤ j then 0x0000FFFF else if j % 2 = 0 then 0x3F0FC3F0 else 0x3FFFFFFF
  | .mono16 => 0x0000FFFF
  | .dp .w10 => if j % 2 = 0 then 0x03FF03FF else 0x000003FF
  | .dp .w14 => if j % 2 = 0 then 0x3FFF3FFF else 0x00003FFF

/-! ### TOPOSEL, as claims say it (42_topology.md) -/

/-- The configuration reaches the mapping of the family of profile `p`: the tag has the profile, `OUTFMT` is not the
reserved code, it is not the legacy configuration, and C8 is not requested (R184, R185, R187, R202). -/
def Dispatched (s : State) (p : Profile) : Prop :=
  s.params.profiles[s.gen.toNat]? = some p ∧ s.cfg.toNat / 8 % 4 ≠ 3 ∧
    ¬ (s.cfg.getLsbD 1 = true ∧ s.gamlen.toNat = 256 ∧ s.cfg.getLsbD 0 = false ∧ s.cfg.getLsbD 2 = false) ∧
    s.cfg.getLsbD 6 = false

/-- `Y` of R181: `OUTFMT` is not 0. -/
def State.wantsYcbcr (s : State) : Bool := s.cfg.toNat / 8 % 4 != 0

/-- `LUTFMT.CFMT` of a profile in its place, bits [17:16] (10_state.md R37). -/
def cfmtField (p : Profile) : Nat :=
  match p.cfmt with
  | .none => 0
  | .fpSm => 0x10000
  | .fixS312 => 0x20000

/-- TOPOSEL ends OK with these six results and changes nothing else (R189, R194). -/
def ToposelGives (s : State) (topo gammaMode cscMode cgmMode prec lutfmt : Nat) : Prop :=
  ∃ t, exec .toposel s = .next t ∧ EndsWith s t 0 ∧
    t = { s with
      topo := BitVec.ofNat 12 topo, gammaMode := BitVec.ofNat 32 gammaMode,
      cscMode := BitVec.ofNat 32 cscMode, cgmMode := BitVec.ofNat 3 cgmMode,
      prec := BitVec.ofNat 5 prec, lutfmt := BitVec.ofNat 18 lutfmt, status := t.status }

/-! ### LUTCMP, as claims say it (43_equality.md) -/

/-- Two channel values differ by at most the tolerance at precision `p` (R231). -/
def ChannelClose (p : Nat) (x y : Chan) : Prop := ((x.toNat : Int) - y.toNat).natAbs ≤ 0xFFFF / 2 ^ p

/-- The entries at index `i` of the two canonical buffers match (R231). -/
def State.EntriesClose (s : State) (i : Nat) : Prop :=
  ChannelClose s.precIn.toNat (s.readEntry .clut0 i).r (s.readEntry .clut1 i).r ∧
    ChannelClose s.precIn.toNat (s.readEntry .clut0 i).g (s.readEntry .clut1 i).g ∧
    ChannelClose s.precIn.toNat (s.readEntry .clut0 i).b (s.readEntry .clut1 i).b

end Sys2Proof.Machine
end

