-- ==== Sys2Proof/Certificates/Slice0/Obligations.lean ====
section
/-! DEFINITION. The statements about the model: what the rules of spec/ say the instructions and the block do. -/

open Sys2Proof Sys2Proof.Machine

/-! ### Encoding (30_encoding.md) -/

/-- Decoding and encoding are inverse on every word and every instruction (R75, R76). -/
def Obligations.DecodeAndEncodeAreInverse : Prop :=
  ∀ (w : Word) (i : Instr), decode w = .ok i ↔ encode i = w

/-- R77: a word that selects no row of the opcode map is refused as R75 says; the all-zero word is such a word. -/
def Obligations.WordsWithoutARowAreIllegal : Prop :=
  (∀ w : Word, (∀ i, (rowOf i).selects w = false) → (∃ e, decode w = .error e) ∧ ∀ s, IllegalAt w s) ∧
    (∀ i, (rowOf i).selects 0 = false)

/-- R75: the five tests in their order, on the digits of the word; the first failing one is named and ends the
operation with ILLEGAL_COMMAND and no other effect; a word that passes all five selects exactly one row. -/
def Obligations.DecodeNamesTheFirstFailingTest : Prop :=
  ∀ w : Word,
    let n := w.toNat
    let op := n / 2 ^ 24
    let shape := n / 2 ^ 20 % 16
    let arg := n / 2 ^ 16 % 16
    let lut := op = 0x10 ∨ op = 0x11
    let test1 := n / 2 ^ 9 % 128 = 0 ∧ n % 256 = 0
    let test2 := op = 0x01 ∨ op = 0x02 ∨ op = 0x10 ∨ op = 0x11 ∨ op = 0x20 ∨ op = 0x21
    let test3 := lut ∨ n / 2 ^ 16 % 256 = 0
    let test4 := op = 0x10 ∨ n / 2 ^ 8 % 2 = 0
    let test5 := lut → shape ≤ 6 ∧ (arg = 0 ∨ (shape = 3 ∧ arg < 4) ∨ (shape = 6 ∧ arg < 2))
    (decode w = .error .reservedBits ↔ ¬test1) ∧
    (decode w = .error .unknownOp ↔ test1 ∧ ¬test2) ∧
    (decode w = .error .operandOnPlainOp ↔ test1 ∧ test2 ∧ ¬test3) ∧
    (decode w = .error .identOnNonEncode ↔ test1 ∧ test2 ∧ test3 ∧ ¬test4) ∧
    (decode w = .error .shapeOrArg ↔ test1 ∧ test2 ∧ test3 ∧ test4 ∧ ¬test5) ∧
    (¬(test1 ∧ test2 ∧ test3 ∧ test4 ∧ test5) → ∀ s, IllegalAt w s) ∧
    (test1 ∧ test2 ∧ test3 ∧ test4 ∧ test5 →
      ∃ i, decode w = .ok i ∧ (rowOf i).selects w = true ∧ ∀ j, (rowOf j).selects w = true → rowOf j = rowOf i)

/-- Words written out from the opcode map of R76 decode to the instructions they stand for. A sanity statement. -/
def Obligations.OpcodeMapWordsDecode : Prop :=
  decode 0x01000000#32 = .ok .ctmenc ∧ decode 0x02000000#32 = .ok .ctmdec ∧
    decode 0x10000000#32 = .ok (.lutencL8 false) ∧ decode 0x10100100#32 = .ok (.lutencI10p6 true) ∧
    decode 0x10330100#32 = .ok (.lutencS10 .h1024 .hi true) ∧ decode 0x10320000#32 = .ok (.lutencS10 .h512 .hi false) ∧
    decode 0x10610000#32 = .ok (.lutencDp .w14 false) ∧ decode 0x11310000#32 = .ok (.lutdecS10 .h1024 .lo) ∧
    decode 0x11400000#32 = .ok .lutdecMs124 ∧ decode 0x20000000#32 = .ok .toposel ∧
    decode 0x21000000#32 = .ok .lutcmp

/-- `LUTID.<shape>` is another spelling of `LUTENC.<shape>.ID`, `LUTENC.S10` without its suffixes is not accepted (R79),
and no other text is a command but the listing of one (R78). That exactly these texts are accepted, and that the shape of
`LUTID` carries its own suffixes, is the model's reading, log entry 15. -/
def Obligations.ListingSpellsEveryInstruction : Prop :=
  (∀ i : Instr, assemble i.spelling = some i) ∧
    (∀ sh, (lutencOf true sh).spelling = "LUTENC." ++ sh.spelling ++ ".ID" ∧
      assemble ("LUTID." ++ sh.spelling) = some (lutencOf true sh)) ∧
    assemble "LUTENC.S10" = none ∧
    ∀ text i, assemble text = some i →
      text = i.spelling ∨ ∃ sh, text = "LUTID." ++ sh.spelling ∧ i = lutencOf true sh

/-! ### The host's moves (10_state.md, 20_memory.md, 70_reset_and_hazards.md) -/

/-- Each step performs the next pending host move, whatever it is, and with none pending nothing happens. Where the move
writes a command word to `CMD`, directly or as the four bytes of a bus access, the step stores the word and executes the
instruction the word decodes to, whole, or ends with ILLEGAL_COMMAND where it decodes to none; a read of `CMD` gives the
last word written, which no operation changes (R27, R63, R246). The list of pending moves, the step with none and
`withFetchWord`, which is such a write, are the model's (log entries 1 and 5), and so is the bus access (log entry 6). -/
def Obligations.StepRunsTheDecodedCommand : Prop :=
  (∀ (s : State) (move : HostMove) (rest : List HostMove), s.pending = move :: rest →
    step s = performMove move { s with pending := rest }) ∧
  (∀ s : State, s.pending = [] → step s = .next s) ∧
  (∀ (s : State) (w : Word) (i : Instr), decode w = .ok i →
    (∀ rest, s.pending = .writeReg 0x00 w :: rest → step s = exec i { s with pending := rest, cmd := w }) ∧
    (∀ rest, s.pending = .busWrite 0 (wordToBytes w) :: rest →
      step s = exec i { s with pending := rest, cmd := w }) ∧
    (decodeTableWord 32 w.toNat = some i ∧ step (s.withFetchWord 32 w.toNat) = exec i { s with cmd := w }) ∧
    (∀ t, exec i { s with cmd := w } = .next t → t.cmd = w ∧ t.readRegIndex 0x00 = w)) ∧
  (∀ (w : Word) (s : State), (∀ i, decode w ≠ .ok i) →
    (∀ rest, s.pending = .writeReg 0x00 w :: rest →
      ∃ t, step s = .next t ∧ EndsWith s t 5 ∧ t = { s with pending := rest, cmd := w, status := t.status }) ∧
    decodeTableWord 32 w.toNat = none)

/-- R46: a host write of a listed register other than `CMD` changes exactly the bits of its width, and is ignored
where the register is read-only or the index is not listed; those indices and all reserved bits read as zero. -/
def Obligations.RegisterWriteReadsBackItsWidth : Prop :=
  ∀ (s : State) (n : Nat) (v : Word), n ≠ 0 →
    (∃ t, performMove (.writeReg n v) s = .next t ∧
      t.readRegIndex n = (v &&& regWritable n) ||| (s.readRegIndex n &&& ~~~regWritable n) ∧
      (∀ k, k ≠ n → t.readRegIndex k = s.readRegIndex k) ∧
      t.clut0 = s.clut0 ∧ t.clut1 = s.clut1 ∧ t.hlut = s.hlut ∧ t.params = s.params ∧ t.powerUp = s.powerUp ∧
      t.pending = s.pending ∧ t.readLog = s.readLog) ∧
    (regWritable n = 0 → performMove (.writeReg n v) s = .next s) ∧
    (¬regListed n → regWritable n = 0 ∧ s.readRegIndex n = 0) ∧
    s.readRegIndex n &&& ~~~regReadable n = 0

/-- Every host read gives the value of the one register or element it names and changes nothing but the record of what
was read, which is the model's (R50, R54; log entry 4). -/
def Obligations.HostReadsChangeNothing : Prop :=
  ∀ (s : State) (n : Nat) (b : ClutId),
    performMove (.readReg n) s = .next { s with readLog := .word (s.readRegIndex n) :: s.readLog } ∧
    performMove (.readClut b n) s = .next { s with readLog := .entry (s.readEntry b n) :: s.readLog } ∧
    performMove (.readHlut n) s = .next { s with readLog := .word (s.readHlutWord n) :: s.readLog }

/-- A buffer element reads back what the host last wrote there, at and beyond the capacity it reads as 0 and writes
are ignored, and every other element is as before (R50, R54, R57). -/
def Obligations.BufferWriteReadsBack : Prop :=
  (∀ (s : State) (b : ClutId) (i : Nat) (e : Entry),
    ∃ t, performMove (.writeClut b i e) s = .next t ∧
      t = { s with clut0 := t.clut0, clut1 := t.clut1 } ∧
      (i < s.params.clutCap → t.readEntry b i = e) ∧
      (s.params.clutCap ≤ i → t = s ∧ s.readEntry b i = ⟨0, 0, 0⟩) ∧
      ∀ c j, (c ≠ b ∨ j ≠ i) → t.readEntry c j = s.readEntry c j) ∧
  (∀ (s : State) (i : Nat) (w : Word),
    ∃ t, performMove (.writeHlut i w) s = .next t ∧
      t = { s with hlut := t.hlut } ∧
      (i < s.params.hlutCap → t.readHlutWord i = w) ∧
      (s.params.hlutCap ≤ i → t = s ∧ s.readHlutWord i = 0) ∧
      ∀ j, j ≠ i → t.readHlutWord j = s.readHlutWord j)

/-- On a platform's byte mapping of REG, word `n` is at byte address `4 * n` with bits [7:0] of a word at the lowest
address, and every access but one naturally aligned 32-bit word is refused (R52, R53). The two moves are the model's
reading of that mapping (log entry 6). -/
def Obligations.BusMovesAreAlignedWordMoves : Prop :=
  ∀ (s : State) (n a size : Nat) (b0 b1 b2 b3 : Byte) (bytes : List Byte),
    (∃ t l0 l1 l2 l3, performMove (.busRead (4 * n) 4) s = .next t ∧
      t = { s with readLog := .bytes [l0, l1, l2, l3] :: s.readLog } ∧
      (s.readRegIndex n).toNat = l0.toNat + 2 ^ 8 * l1.toNat + 2 ^ 16 * l2.toNat + 2 ^ 24 * l3.toNat) ∧
    performMove (.busWrite (4 * n) [b0, b1, b2, b3]) s =
      performMove (.writeReg n
        (BitVec.ofNat 32 (b0.toNat + 2 ^ 8 * b1.toNat + 2 ^ 16 * b2.toNat + 2 ^ 24 * b3.toNat))) s ∧
    (¬(size = 4 ∧ a % 4 = 0) → performMove (.busRead a size) s = .refused (.nonWordBusAccess a size)) ∧
    (¬(bytes.length = 4 ∧ a % 4 = 0) →
      performMove (.busWrite a bytes) s = .refused (.nonWordBusAccess a bytes.length))

/-! ### Reset and invariants -/

/-- R45: after reset every register holds 0, the contents of the three buffers are unspecified (a read gives the free
value of the power-up, log entry 3) and the launch parameters are as they were given. `State.reset` is one such state,
with the defaults of R9. -/
def Obligations.ResetReadsZeroEverywhere : Prop :=
  (∀ (p : Params) (power n : Nat),
    (State.resetWith p power).readRegIndex n = 0 ∧
    (State.resetWith p power).params = p ∧
    (n < p.clutCap → ∀ b, (State.resetWith p power).readEntry b n = Config.unwrittenEntry power b n) ∧
    (n < p.hlutCap → (State.resetWith p power).readHlutWord n = Config.unwrittenWord power n)) ∧
  State.reset.status = 0 ∧ State.reset.gen = 0 ∧ State.reset.cfg = 0 ∧ State.reset.clen0 = 0 ∧
    State.reset.clen1 = 0 ∧ State.reset.hlen = 0 ∧ State.reset.deglen = 0 ∧ State.reset.gamlen = 0 ∧
    (∀ i, State.reset.m.get i = 0 ∧ State.reset.ec.get i = 0) ∧
    (∀ k, State.reset.pre.get k = 0 ∧ State.reset.post.get k = 0) ∧
    State.reset.params = {
      ctmInRepr := .twos, profiles := Profile.reference, lrRatio := 0xDBDBDBDB, postoffLim := 0x101,
      tables := ⟨256, 129, 1024, 512, 1024, 262145, 33, 257, 65⟩, clutCap := 262145, hlutCap := 2048 }

/-- The invariant holds after reset, for every choice of well-formed launch parameters. -/
def Obligations.ResetMeetsTheInvariant : Prop :=
  Inv State.reset ∧ ∀ (p : Params) (power : Nat), p.wellFormed = true → Inv (State.resetWith p power)

/-- Every step keeps the invariant: the buffers stay canonical and below their capacities (that form is the model's, log
entry 3), `STATUS` and `SAT` keep their reserved bits zero and a fault's sticky bit set, the six result registers of
TOPOSEL agree with one another: precision and shape bytes with the enable matrix, and the three mode words with it. -/
def Obligations.StepKeepsTheInvariant : Prop := ∀ s t : State, Inv s → step s = .next t → Inv t

/-- No step changes the launch parameters or clears a sticky bit, and each step uses up one pending move (R28, R42,
R258, R263, R266). The list of pending moves is the model's, log entry 5. -/
def Obligations.StepKeepsLaunchDataAndStickyBits : Prop :=
  ∀ s t : State, step s = .next t →
    t.params = s.params ∧ t.powerUp = s.powerUp ∧ t.pending = s.pending.tail ∧
      ∀ k : Nat, (statusSticky s.status).getLsbD k = true → (statusSticky t.status).getLsbD k = true

/-! ### Every operation (60_exceptions.md, 10_state.md, 20_memory.md) -/

/-- Every operation ends, from every state, with exactly one code, one of those the table of R241 allows it. -/
def Obligations.EveryOperationEndsWithOneAllowedCode : Prop :=
  ∀ (i : Instr) (s : State),
    ∃ t code, exec i s = .next t ∧ code ∈ allowedCodes i ∧ EndsWith s t code ∧ ∀ c, EndsWith s t c → c = code

/-- R245 and R253: an operation that does not end OK changes nothing but `STATUS` and, for code 2 only, `ERR_EXPECTED`
and `ERR_ACTUAL`; a fault sets bit 8 + code, UNSUPPORTED sets no sticky bit. -/
def Obligations.OutcomesOtherThanOkLeaveResultsWhole : Prop :=
  ∀ (i : Instr) (s t : State) (code : Nat), exec i s = .next t → EndsWith s t code → code ≠ 0 →
    t = { s with status := t.status, errExpected := t.errExpected, errActual := t.errActual } ∧
    (code ≠ 2 → t.errExpected = s.errExpected ∧ t.errActual = s.errActual) ∧
    (code ≠ 1 → (statusSticky t.status).getLsbD code = true) ∧
    (code = 1 → statusSticky t.status = statusSticky s.status)

/-- R43: no operation reads `STATUS`, `SAT` or `CMPRES` (nor any other record of an earlier outcome), and each is
written only by the operations that have it as a result: from two states that differ in those registers only, an
operation ends with the same code and the same results. -/
def Obligations.OperationsIgnoreEarlierOutcomes : Prop :=
  ∀ (i : Instr) (s o t : State), exec i s = .next t →
    (i ≠ .ctmenc → t.sat = s.sat) ∧ (i ≠ .lutcmp → t.cmpres = s.cmpres) ∧
    ∃ t' code, exec i (s.withOutcomeOf o) = .next t' ∧
      EndsWith s t code ∧ EndsWith (s.withOutcomeOf o) t' code ∧ t' = t.withOutcomeOf t' ∧
      Carried State.errExpected s o t t' ∧ Carried State.errActual s o t t' ∧ Carried State.sat s o t t' ∧
      Carried State.cmpres s o t t' ∧ Carried State.cmpidx s o t t' ∧ Carried State.topo s o t t' ∧
      Carried State.gammaMode s o t t' ∧ Carried State.cscMode s o t t' ∧ Carried State.cgmMode s o t t' ∧
      Carried State.prec s o t t' ∧ Carried State.lutfmt s o t t' ∧ Carried State.hbase s o t t'

/-- The frame of every operation: it writes only what the table of R51 lists for it; the two error registers change
only with code 2 (R29); in a well-formed launch a buffer changes only below the length the operation declares (R58). -/
def Obligations.OperationsWriteOnlyTheirTable : Prop :=
  ∀ (i : Instr) (s t : State), exec i s = .next t →
    WritesOnly i s t ∧
    (¬EndsWith s t 2 → t.errExpected = s.errExpected ∧ t.errActual = s.errActual) ∧
    (s.params.wellFormed = true →
      (∀ j, t.hlen.toNat ≤ j → t.readHlutWord j = s.readHlutWord j) ∧
      (∀ j, t.clen0.toNat ≤ j → t.readEntry .clut0 j = s.readEntry .clut0 j)) ∧
    (∀ j, t.readEntry .clut1 j = s.readEntry .clut1 j)

/-- LUTENC, LUTDEC and LUTCMP read neither `GEN` nor `CFG` nor the profile, nor `PREC`, nor any operand of the codec
(R131, R234): changing all of those before changes nothing after but those. -/
def Obligations.LutOperationsIgnoreTheProfile : Prop :=
  ∀ (i : Instr) (s t o : State), i ≠ .ctmenc → i ≠ .ctmdec → i ≠ .toposel → exec i s = .next t →
    exec i { s with
      gen := o.gen, cfg := o.cfg, deglen := o.deglen, gamlen := o.gamlen, prec := o.prec, m := o.m, ec := o.ec,
      params := { o.params with
        tables := s.params.tables, clutCap := s.params.clutCap, hlutCap := s.params.hlutCap } } =
    .next { t with
      gen := o.gen, cfg := o.cfg, deglen := o.deglen, gamlen := o.gamlen, prec := o.prec, m := o.m, ec := o.ec,
      params := { o.params with
        tables := s.params.tables, clutCap := s.params.clutCap, hlutCap := s.params.hlutCap } }

/-- R59: LUTENC never reads `HLUT`; LUTDEC reads `HLUT` and gives `CLUT0` the shape's hardware entry count, whatever
`CLUT0` and `CLEN0` were. -/
def Obligations.EncodeNeverReadsHardwareState : Prop :=
  ∀ (sh : LutShape) (ident : Bool) (s t : State), s.params.wellFormed = true → EndsWith s t 0 →
    (exec (lutencOf ident sh) s = .next t →
      ∀ (other : Memory Word) (len : Word), ∃ t', exec (lutencOf ident sh) { s with hlut := other, hlen := len } = .next t' ∧
        EndsWith s t' 0 ∧ t'.hlen = t.hlen ∧
        ∀ j, j < (s.columns sh).2.2 → t'.readHlutWord j = t.readHlutWord j) ∧
    (exec (lutdecOf sh) s = .next t →
      t.clen0.toNat = (s.columns sh).2.1 ∧
      ∀ (other : Memory Entry) (len : Word), ∃ t', exec (lutdecOf sh) { s with clut0 := other, clen0 := len } = .next t' ∧
        EndsWith s t' 0 ∧ t'.clen0 = t.clen0 ∧
        ∀ j, j < (s.columns sh).2.1 → t'.readEntry .clut0 j = t.readEntry .clut0 j)

/-! ### The codec (40_codec.md) -/

/-- CTMENC under FP_SM, for every matrix, representation and range request (R96, R99 to R101, R107, R110): the magnitude
clamp, the band, the rounding half up, the mantissa clamp, the word, the offsets and both saturation records; nothing
else changes but `STATUS`, which ends OK. -/
def Obligations.CtmencFpSm : Prop :=
  ∀ (s : State) (p : Profile), s.params.profiles[s.gen.toNat]? = some p → p.cfmt = .fpSm →
    ∃ t, exec .ctmenc s = .next t ∧ EndsWith s t 0 ∧
      t = { s with ec := t.ec, pre := t.pre, post := t.post, sat := t.sat, status := t.status } ∧
      (∀ k, t.pre.get k = 0 ∧
        t.post.get k = if p.limCsc = true ∧ s.cfg.getLsbD 5 = true then s.params.postoffLim else 0) ∧
      satLegal t.sat = true ∧
      ∀ i : Fin 9,
        let a := fpClamped (encodedMagnitude s p (s.m.get i))
        ∃ row, InBand row a ∧
          (t.ec.get i).toNat =
            2 ^ 15 * ((s.m.get i).getLsbD 63).toNat + 2 ^ 12 * row.exp + 2 ^ 3 * min (row.rounded a) 511 ∧
          t.sat.getLsbD i = decide (4 * 2 ^ 32 - 1 < (coefValue s.params.ctmInRepr (s.m.get i)).natAbs) ∧
          t.sat.getLsbD (16 + i) = decide (row.rounded a = 512)

/-- CTMENC under FIX_S312 (R103 to R105, R107, R110): the rounding constant is added, then the sum is clamped; bits
[34:20] of it are the integer and fraction fields; the saturation record; `MANTSAT` is 0. When the pre-pass clamp counts as
having changed the magnitude is the model's reading of R104, log entry 10. -/
def Obligations.CtmencFixS312 : Prop :=
  ∀ (s : State) (p : Profile), s.params.profiles[s.gen.toNat]? = some p → p.cfmt = .fixS312 →
    ∃ t, exec .ctmenc s = .next t ∧ EndsWith s t 0 ∧
      t = { s with ec := t.ec, pre := t.pre, post := t.post, sat := t.sat, status := t.status } ∧
      (∀ k, t.pre.get k = 0 ∧
        t.post.get k = if p.limCsc = true ∧ s.cfg.getLsbD 5 = true then s.params.postoffLim else 0) ∧
      t.sat.toNat < 2 ^ 9 ∧
      ∀ i : Fin 9,
        let a := encodedMagnitude s p (s.m.get i)
        let magnitude := (coefValue s.params.ctmInRepr (s.m.get i)).natAbs
        (t.ec.get i).toNat =
          2 ^ 15 * ((s.m.get i).getLsbD 63).toNat + min (a + 2 ^ 19) (8 * 2 ^ 32 - 1) / 2 ^ 20 ∧
        (t.sat.getLsbD i = true ↔
          8 * 2 ^ 32 - 1 < a + 2 ^ 19 ∨
            (p.limCsc = true ∧ s.cfg.getLsbD 5 = true ∧ p.maxMag * 2 ^ 32 - 1 < magnitude))

/-- R253, and CTMENC's fault of R244: with no profile or no coefficient format CTMENC ends with UNSUPPORTED_COMBINATION
and CTMDEC with UNSUPPORTED, and so does CTMDEC with no readback, before any coefficient is looked at; only `STATUS`
changes. No other operation ends with UNSUPPORTED. -/
def Obligations.CodecWithoutAFormat : Prop :=
  (∀ s : State, s.NoFormat → ∃ t, exec .ctmenc s = .next t ∧ OnlyStatus s t 4) ∧
  (∀ s : State, (s.NoFormat ∨ ∃ p, s.params.profiles[s.gen.toNat]? = some p ∧ p.readback = false) →
    ∃ t, exec .ctmdec s = .next t ∧ OnlyStatus s t 1 ∧ statusSticky t.status = statusSticky s.status) ∧
  (∀ (i : Instr) (s t : State), exec i s = .next t → EndsWith s t 1 → i = .ctmdec)

/-- CTMDEC under FP_SM (R102, R111): an exponent code 4 or 5 in any of the nine words faults and leaves `M` whole;
otherwise each coefficient has the word's sign and its mantissa at the band's place, whatever bits [2:0] are. -/
def Obligations.CtmdecFpSm : Prop :=
  ∀ (s : State) (p : Profile), s.params.profiles[s.gen.toNat]? = some p → p.cfmt = .fpSm → p.readback = true →
    ((∃ i, (s.ec.get i).toNat / 2 ^ 12 % 8 = 4 ∨ (s.ec.get i).toNat / 2 ^ 12 % 8 = 5) →
      ∃ t, exec .ctmdec s = .next t ∧ OnlyStatus s t 6) ∧
    ((∀ i, (s.ec.get i).toNat / 2 ^ 12 % 8 ≠ 4 ∧ (s.ec.get i).toNat / 2 ^ 12 % 8 ≠ 5) →
      ∃ t, exec .ctmdec s = .next t ∧ EndsWith s t 0 ∧ t = { s with m := t.m, status := t.status } ∧
        ∀ i, ∃ row ∈ bandRows, row.exp = (s.ec.get i).toNat / 2 ^ 12 % 8 ∧
          coefValue s.params.ctmInRepr (t.m.get i) =
            (if (s.ec.get i).getLsbD 15 then -1 else 1) *
              (((s.ec.get i).toNat / 2 ^ 3 % 512 * 2 ^ (32 - row.fbits) : Nat) : Int) ∧
          (s.params.ctmInRepr = .signmag → (t.m.get i).getLsbD 63 = (s.ec.get i).getLsbD 15))

/-- CTMDEC under FIX_S312 (R106, R111): every word is valid; each coefficient has the word's sign and its low 15 bits at
bit 20. -/
def Obligations.CtmdecFixS312 : Prop :=
  ∀ (s : State) (p : Profile), s.params.profiles[s.gen.toNat]? = some p → p.cfmt = .fixS312 → p.readback = true →
    ∃ t, exec .ctmdec s = .next t ∧ EndsWith s t 0 ∧ t = { s with m := t.m, status := t.status } ∧
      ∀ i,
        coefValue s.params.ctmInRepr (t.m.get i) =
          (if (s.ec.get i).getLsbD 15 then -1 else 1) * (((s.ec.get i).toNat % 2 ^ 15 * 2 ^ 20 : Nat) : Int) ∧
        (s.params.ctmInRepr = .signmag → (t.m.get i).getLsbD 63 = (s.ec.get i).getLsbD 15)

/-- The round trip of a matrix (R108): CTMENC then CTMDEC gives back every coefficient with its sign (under `signmag` the
sign bit itself, a negative zero included), less than one rounding ULP from the clamped magnitude that was encoded, and
within half an ULP where no clamp acted after rounding; everything outside the codec's own registers is as before. -/
def Obligations.MatrixRoundTripWithinOneUlp : Prop :=
  ∀ (s : State) (p : Profile), s.params.profiles[s.gen.toNat]? = some p → p.cfmt ≠ .none → p.readback = true →
    ∃ t u, exec .ctmenc s = .next t ∧ exec .ctmdec t = .next u ∧ EndsWith t u 0 ∧
      u = { s with m := u.m, ec := u.ec, pre := u.pre, post := u.post, sat := u.sat, status := u.status } ∧
      ∀ i : Fin 9,
        let a := encodedMagnitude s p (s.m.get i)
        (s.params.ctmInRepr = .signmag → (u.m.get i).getLsbD 63 = (s.m.get i).getLsbD 63) ∧
        ∃ back : Nat,
          coefValue s.params.ctmInRepr (u.m.get i) = (if (s.m.get i).getLsbD 63 then -1 else 1) * (back : Int) ∧
          (p.cfmt = .fpSm → ∃ row, InBand row (fpClamped a) ∧
            within (2 ^ (32 - row.fbits) - 1) back (fpClamped a) ∧
            (row.rounded (fpClamped a) ≠ 512 → within (2 ^ (31 - row.fbits)) back (fpClamped a))) ∧
          (p.cfmt = .fixS312 →
            within (2 ^ 20 - 1) back (min a (8 * 2 ^ 32 - 1)) ∧
            (a + 2 ^ 19 ≤ 8 * 2 ^ 32 - 1 → within (2 ^ 19) back a))

/-- Encoding a decoded word gives the word back (90_conflicts.md C9): for FIX_S312 every word, for FP_SM every word the
encoder can produce. -/
def Obligations.QuantisationIsIdempotent : Prop :=
  (∀ neg aIn neg' back, decFp (encFp neg aIn) = some (neg', back) → neg' = neg ∧ encFp neg' back = encFp neg aIn) ∧
    (∀ neg aIn, (decFp (encFp neg aIn)).isSome = true) ∧
    ∀ w : BitVec 16, encS312 (decS312 w).1 (decS312 w).2 = w

/-- R112: the identity matrix, with no pre-pass, encodes to the format's identity constant on the diagonal and to its
zero elsewhere, and nothing saturates. -/
def Obligations.IdentityMatrixConstants : Prop :=
  ∀ (s : State) (p : Profile), s.params.profiles[s.gen.toNat]? = some p →
    ¬(p.limCsc = true ∧ s.cfg.getLsbD 5 = true) →
    s.m = ⟨0x100000000, 0, 0, 0, 0x100000000, 0, 0, 0, 0x100000000⟩ →
    (p.cfmt = .fpSm → ∃ t, exec .ctmenc s = .next t ∧ EndsWith s t 0 ∧ t.sat = 0 ∧
      t.ec = ⟨0x7800, 0x3000, 0x3000, 0x3000, 0x7800, 0x3000, 0x3000, 0x3000, 0x7800⟩) ∧
    (p.cfmt = .fixS312 → ∃ t, exec .ctmenc s = .next t ∧ EndsWith s t 0 ∧ t.sat = 0 ∧
      t.ec = ⟨0x1000, 0, 0, 0, 0x1000, 0, 0, 0, 0x1000⟩)

/-- R113: the sign bit is copied whatever the magnitude becomes, so a magnitude that rounds to 0 gives a zero or a
negative zero; both zeros decode to magnitude 0. -/
def Obligations.SignIsCopiedWhateverTheMagnitude : Prop :=
  (∀ (s t : State), exec .ctmenc s = .next t → EndsWith s t 0 → ∀ (p : Profile) (i : Fin 9),
    s.params.profiles[s.gen.toNat]? = some p →
      (t.ec.get i).getLsbD 15 = (s.m.get i).getLsbD 63 ∧
      (encodedMagnitude s p (s.m.get i) < 2 ^ 19 →
        (p.cfmt = .fpSm → t.ec.get i = if (s.m.get i).getLsbD 63 then 0xB000 else 0x3000) ∧
        (p.cfmt = .fixS312 → t.ec.get i = if (s.m.get i).getLsbD 63 then 0x8000 else 0x0000))) ∧
    decFp 0x3000 = some (false, 0) ∧ decFp 0xB000 = some (true, 0) ∧
    decS312 0x0000 = (false, 0) ∧ decS312 0x8000 = (true, 0)

/-- The limited-range pre-pass never increases a magnitude, whatever the ratio and the bound, keeps their order, and has
the values R95 derives for the reference ratio. -/
def Obligations.LimitedRangeNeverIncreasesAMagnitude : Prop :=
  (∀ (ratio : BitVec 32) (maxMag a b : Nat),
    limcomp ratio maxMag a ≤ a ∧ limcomp ratio maxMag a ≤ maxMag * 2 ^ 32 - 1 ∧
      (a ≤ b → limcomp ratio maxMag a ≤ limcomp ratio maxMag b)) ∧
  limcomp 0xDBDBDBDB 4 0 = 0 ∧ limcomp 0xDBDBDBDB 4 (2 ^ 32) = 0xDBDBDBDB ∧
    limcomp 0xDBDBDBDB 4 0x80000000 = 0x6DEDEDED ∧ limcomp 0xDBDBDBDB 4 (2 * 2 ^ 32) = 0x1B7B7B7B6 ∧
    ∀ a, 4 * 2 ^ 32 - 1 ≤ a → limcomp 0xDBDBDBDB 4 a = 0x36F6F6F68

/-! ### LUTENC (41_lut_transcoder.md) -/

/-- LUTENC.L8, with and without `ID` (R136, R137): a word for each of the `L8_LEN` (256) entries, the top byte of each
channel, or SIZE_MISMATCH. A length other than the default is log entry 7. -/
def Obligations.LutencL8 : Prop :=
  ∀ (s : State) (ident : Bool), s.params.wellFormed = true →
    let entries := s.params.tables.l8
    (ident = true ∨ SourceAccepted s .l8 → EncodeFits s .l8 →
      ∃ t, exec (.lutencL8 ident) s = .next t ∧ TableStored s t entries 0 ∧
      ∀ i, i < entries → ∃ e, SourceEntry s ident entries i e ∧
        (t.readHlutWord i).toNat =
          2 ^ 16 * (e.r.toNat / 2 ^ 8) + 2 ^ 8 * (e.g.toNat / 2 ^ 8) + e.b.toNat / 2 ^ 8) ∧
    (¬(ident = true ∨ SourceAccepted s .l8) →
      ∃ t, exec (.lutencL8 ident) s = .next t ∧ SizeMismatchRaised s t entries s.clen0.toNat)

/-- LUTENC.I10P6 (R139, R140): a pair of a word of low bytes and a word of high bytes for each of the `I10P6_LEN` (129)
entries but the last, then the three channels of the last entry whole. Where the words stand for a length other than the
default is log entry 7. -/
def Obligations.LutencI10p6 : Prop :=
  ∀ (s : State) (ident : Bool), s.params.wellFormed = true →
    let entries := s.params.tables.i10p6
    let last := entries - 1
    (ident = true ∨ SourceAccepted s .i10p6 → EncodeFits s .i10p6 →
      ∃ t, exec (.lutencI10p6 ident) s = .next t ∧ TableStored s t (2 * last + 3) 0 ∧
      (∀ i, i < last → ∃ e, SourceEntry s ident entries i e ∧
        (t.readHlutWord (2 * i)).toNat =
          2 ^ 16 * (e.r.toNat % 2 ^ 8) + 2 ^ 8 * (e.g.toNat % 2 ^ 8) + e.b.toNat % 2 ^ 8 ∧
        (t.readHlutWord (2 * i + 1)).toNat =
          2 ^ 16 * (e.r.toNat / 2 ^ 8) + 2 ^ 8 * (e.g.toNat / 2 ^ 8) + e.b.toNat / 2 ^ 8) ∧
      ∃ e, SourceEntry s ident entries last e ∧
        (t.readHlutWord (2 * last)).toNat = e.r.toNat ∧ (t.readHlutWord (2 * last + 1)).toNat = e.g.toNat ∧
        (t.readHlutWord (2 * last + 2)).toNat = e.b.toNat) ∧
    (¬(ident = true ∨ SourceAccepted s .i10p6) →
      ∃ t, exec (.lutencI10p6 ident) s = .next t ∧ SizeMismatchRaised s t entries s.clen0.toNat)

/-- LUTENC.P10 (R142): a word for each of the `P10_LEN` (1024) entries, the top ten bits of each channel, red highest.
A length other than the default is log entry 7. -/
def Obligations.LutencP10 : Prop :=
  ∀ (s : State) (ident : Bool), s.params.wellFormed = true →
    let entries := s.params.tables.p10
    (ident = true ∨ SourceAccepted s .p10 → EncodeFits s .p10 →
      ∃ t, exec (.lutencP10 ident) s = .next t ∧ TableStored s t entries 0 ∧
      ∀ i, i < entries → ∃ e, SourceEntry s ident entries i e ∧
        (t.readHlutWord i).toNat =
          2 ^ 20 * (e.r.toNat / 2 ^ 6) + 2 ^ 10 * (e.g.toNat / 2 ^ 6) + e.b.toNat / 2 ^ 6) ∧
    (¬(ident = true ∨ SourceAccepted s .p10) →
      ∃ t, exec (.lutencP10 ident) s = .next t ∧ SizeMismatchRaised s t entries s.clen0.toNat)

/-- LUTENC.S10, both sizes and both halves (R134, R143): `H` words, word `i` from source entry `i * (N - 1) / (H - 1)`,
and `HBASE` where the half begins; any source length from 1 to the capacity is accepted. A size other than the defaults is
log entry 7. -/
def Obligations.LutencS10 : Prop :=
  ∀ (s : State) (sz : HalfSize) (half : Half) (ident : Bool), s.params.wellFormed = true →
    let entries := (s.columns (.s10 sz half)).1
    let base := if half = .lo then 0 else entries
    let length := if ident then entries else s.clen0.toNat
    (ident = true ∨ SourceAccepted s (.s10 sz half) → EncodeFits s (.s10 sz half) →
      ∃ t, exec (.lutencS10 sz half ident) s = .next t ∧ TableStored s t entries base ∧
        ∀ i, i < entries → ∃ e, SourceEntry s ident entries (i * (length - 1) / (entries - 1)) e ∧
          (t.readHlutWord i).toNat =
            2 ^ 20 * (e.r.toNat / 2 ^ 6) + 2 ^ 10 * (e.g.toNat / 2 ^ 6) + e.b.toNat / 2 ^ 6) ∧
    (¬(ident = true ∨ SourceAccepted s (.s10 sz half)) →
      ∃ t, exec (.lutencS10 sz half ident) s = .next t ∧ SizeMismatchRaised s t entries s.clen0.toNat)

/-- LUTENC.MS124 (R146 to R148): 521 pairs, from the superfine, fine and coarse picks, of a word of the channels' low six
bits and a word of their top ten, then the three channels of the last of the `MS_LEN` (262145) source entries whole. That
the last is the final entry for a length other than the default is log entry 7. -/
def Obligations.LutencMs124 : Prop :=
  ∀ (s : State) (ident : Bool), s.params.wellFormed = true →
    let entries := s.params.tables.ms
    (ident = true ∨ SourceAccepted s .ms124 → EncodeFits s .ms124 →
      ∃ t, exec (.lutencMs124 ident) s = .next t ∧ TableStored s t 1045 0 ∧
      (∀ k, k < 521 → ∃ e, SourceEntry s ident entries (pickedIndex s.params.tables .ms124 entries k) e ∧
        (t.readHlutWord (2 * k)).toNat =
          2 ^ 24 * (e.r.toNat % 2 ^ 6) + 2 ^ 14 * (e.g.toNat % 2 ^ 6) + 2 ^ 4 * (e.b.toNat % 2 ^ 6) ∧
        (t.readHlutWord (2 * k + 1)).toNat =
          2 ^ 20 * (e.r.toNat / 2 ^ 6) + 2 ^ 10 * (e.g.toNat / 2 ^ 6) + e.b.toNat / 2 ^ 6) ∧
      ∃ e, SourceEntry s ident entries (entries - 1) e ∧
        (t.readHlutWord 1042).toNat = e.r.toNat ∧ (t.readHlutWord 1043).toNat = e.g.toNat ∧
        (t.readHlutWord 1044).toNat = e.b.toNat) ∧
    (¬(ident = true ∨ SourceAccepted s .ms124) →
      ∃ t, exec (.lutencMs124 ident) s = .next t ∧ SizeMismatchRaised s t entries s.clen0.toNat)

/-- LUTENC.MONO16 (R150, R151): a word for each of the `MONO_LEN` (33) entries, its green channel. A length
other than the default is log entry 7. -/
def Obligations.LutencMono16 : Prop :=
  ∀ (s : State) (ident : Bool), s.params.wellFormed = true →
    let entries := s.params.tables.mono
    (ident = true ∨ SourceAccepted s .mono16 → EncodeFits s .mono16 →
      ∃ t, exec (.lutencMono16 ident) s = .next t ∧ TableStored s t entries 0 ∧
      ∀ i, i < entries → ∃ e, SourceEntry s ident entries i e ∧ (t.readHlutWord i).toNat = e.g.toNat) ∧
    (¬(ident = true ∨ SourceAccepted s .mono16) →
      ∃ t, exec (.lutencMono16 ident) s = .next t ∧ SizeMismatchRaised s t entries s.clen0.toNat)

/-- LUTENC.DP at both widths (R153, R154): a word of green and blue and a word of red for each entry. A length
other than the defaults is log entry 7. -/
def Obligations.LutencDp : Prop :=
  ∀ (s : State) (w : DpWidth) (ident : Bool), s.params.wellFormed = true →
    let entries := (s.columns (.dp w)).1
    let dropped := 2 ^ (16 - keptBits (.dp w))
    (ident = true ∨ SourceAccepted s (.dp w) → EncodeFits s (.dp w) →
      ∃ t, exec (.lutencDp w ident) s = .next t ∧ TableStored s t (2 * entries) 0 ∧
        ∀ i, i < entries → ∃ e, SourceEntry s ident entries i e ∧
          (t.readHlutWord (2 * i)).toNat = 2 ^ 16 * (e.g.toNat / dropped) + e.b.toNat / dropped ∧
          (t.readHlutWord (2 * i + 1)).toNat = e.r.toNat / dropped) ∧
    (¬(ident = true ∨ SourceAccepted s (.dp w)) →
      ∃ t, exec (.lutencDp w ident) s = .next t ∧ SizeMismatchRaised s t entries s.clen0.toNat)

/-! ### LUTDEC (41_lut_transcoder.md) -/

/-- LUTDEC.L8 (R138): each byte of a word becomes the top byte of a channel. A length other than the default is log
entry 7. -/
def Obligations.LutdecL8 : Prop :=
  ∀ s : State, s.params.wellFormed = true →
    let entries := s.params.tables.l8
    (s.hlen.toNat = entries → DecodeFits s .l8 → ∃ t, exec .lutdecL8 s = .next t ∧ EntriesStored s t entries ∧
      ∀ i, i < entries →
        let n := (s.readHlutWord i).toNat
        (t.readEntry .clut0 i).r.toNat = 2 ^ 8 * (n / 2 ^ 16 % 2 ^ 8) ∧
        (t.readEntry .clut0 i).g.toNat = 2 ^ 8 * (n / 2 ^ 8 % 2 ^ 8) ∧
        (t.readEntry .clut0 i).b.toNat = 2 ^ 8 * (n % 2 ^ 8)) ∧
    (s.hlen.toNat ≠ entries → ∃ t, exec .lutdecL8 s = .next t ∧ SizeMismatchRaised s t entries s.hlen.toNat)

/-- LUTDEC.I10P6 (R141): the bytes of a pair are put together again, and the last entry is read from its three words.
Where the words stand for a length other than the default is log entry 7. -/
def Obligations.LutdecI10p6 : Prop :=
  ∀ s : State, s.params.wellFormed = true →
    let last := s.params.tables.i10p6 - 1
    let words := 2 * last + 3
    (s.hlen.toNat = words → DecodeFits s .i10p6 → ∃ t, exec .lutdecI10p6 s = .next t ∧ EntriesStored s t (last + 1) ∧
      (∀ i, i < last →
        let lo := (s.readHlutWord (2 * i)).toNat
        let hi := (s.readHlutWord (2 * i + 1)).toNat
        (t.readEntry .clut0 i).r.toNat = 2 ^ 8 * (hi / 2 ^ 16 % 2 ^ 8) + lo / 2 ^ 16 % 2 ^ 8 ∧
        (t.readEntry .clut0 i).g.toNat = 2 ^ 8 * (hi / 2 ^ 8 % 2 ^ 8) + lo / 2 ^ 8 % 2 ^ 8 ∧
        (t.readEntry .clut0 i).b.toNat = 2 ^ 8 * (hi % 2 ^ 8) + lo % 2 ^ 8) ∧
      (t.readEntry .clut0 last).r.toNat = (s.readHlutWord (2 * last)).toNat % 2 ^ 16 ∧
      (t.readEntry .clut0 last).g.toNat = (s.readHlutWord (2 * last + 1)).toNat % 2 ^ 16 ∧
      (t.readEntry .clut0 last).b.toNat = (s.readHlutWord (2 * last + 2)).toNat % 2 ^ 16) ∧
    (s.hlen.toNat ≠ words → ∃ t, exec .lutdecI10p6 s = .next t ∧ SizeMismatchRaised s t words s.hlen.toNat)

/-- LUTDEC.P10 and LUTDEC.S10, both sizes, the half ignored (R144, R145): each ten-bit lane of a word becomes the top ten
bits of a channel. A length other than the defaults is log entry 7. -/
def Obligations.LutdecP10AndS10 : Prop :=
  ∀ (i : Instr) (sh : LutShape) (entries : Nat) (s : State), s.params.wellFormed = true →
    (i = .lutdecP10 ∧ sh = .p10 ∧ entries = s.params.tables.p10) ∨
      (∃ half,
        (i = .lutdecS10 .h512 half ∧ sh = .s10 .h512 half ∧ entries = s.params.tables.s10Sz0) ∨
        (i = .lutdecS10 .h1024 half ∧ sh = .s10 .h1024 half ∧ entries = s.params.tables.s10Sz1)) →
    (s.hlen.toNat = entries → DecodeFits s sh → ∃ t, exec i s = .next t ∧ EntriesStored s t entries ∧
      ∀ j, j < entries →
        let n := (s.readHlutWord j).toNat
        (t.readEntry .clut0 j).r.toNat = 2 ^ 6 * (n / 2 ^ 20 % 2 ^ 10) ∧
        (t.readEntry .clut0 j).g.toNat = 2 ^ 6 * (n / 2 ^ 10 % 2 ^ 10) ∧
        (t.readEntry .clut0 j).b.toNat = 2 ^ 6 * (n % 2 ^ 10)) ∧
    (s.hlen.toNat ≠ entries → ∃ t, exec i s = .next t ∧ SizeMismatchRaised s t entries s.hlen.toNat)

/-- LUTDEC.MS124 (R149): 522 entries in segment order, the low six bits of each channel from the even word and the top
ten from the odd one. -/
def Obligations.LutdecMs124 : Prop :=
  ∀ s : State, s.params.wellFormed = true →
    (s.hlen.toNat = 1045 → DecodeFits s .ms124 → ∃ t, exec .lutdecMs124 s = .next t ∧ EntriesStored s t 522 ∧
      (∀ k, k < 521 →
        let lo := (s.readHlutWord (2 * k)).toNat
        let hi := (s.readHlutWord (2 * k + 1)).toNat
        (t.readEntry .clut0 k).r.toNat = 2 ^ 6 * (hi / 2 ^ 20 % 2 ^ 10) + lo / 2 ^ 24 % 2 ^ 6 ∧
        (t.readEntry .clut0 k).g.toNat = 2 ^ 6 * (hi / 2 ^ 10 % 2 ^ 10) + lo / 2 ^ 14 % 2 ^ 6 ∧
        (t.readEntry .clut0 k).b.toNat = 2 ^ 6 * (hi % 2 ^ 10) + lo / 2 ^ 4 % 2 ^ 6) ∧
      (t.readEntry .clut0 521).r.toNat = (s.readHlutWord 1042).toNat % 2 ^ 16 ∧
      (t.readEntry .clut0 521).g.toNat = (s.readHlutWord 1043).toNat % 2 ^ 16 ∧
      (t.readEntry .clut0 521).b.toNat = (s.readHlutWord 1044).toNat % 2 ^ 16) ∧
    (s.hlen.toNat ≠ 1045 → ∃ t, exec .lutdecMs124 s = .next t ∧ SizeMismatchRaised s t 1045 s.hlen.toNat)

/-- LUTDEC.MONO16 (R152): the stored value in all three channels. A length other than the default is log entry 7. -/
def Obligations.LutdecMono16 : Prop :=
  ∀ s : State, s.params.wellFormed = true →
    let entries := s.params.tables.mono
    (s.hlen.toNat = entries → DecodeFits s .mono16 → ∃ t, exec .lutdecMono16 s = .next t ∧ EntriesStored s t entries ∧
      ∀ i, i < entries →
        (t.readEntry .clut0 i).r.toNat = (s.readHlutWord i).toNat % 2 ^ 16 ∧
        (t.readEntry .clut0 i).g = (t.readEntry .clut0 i).r ∧ (t.readEntry .clut0 i).b = (t.readEntry .clut0 i).r) ∧
    (s.hlen.toNat ≠ entries → ∃ t, exec .lutdecMono16 s = .next t ∧ SizeMismatchRaised s t entries s.hlen.toNat)

/-- LUTDEC.DP at both widths (R155): red from the high word, green and blue from the low one. A length other than
the defaults is log entry 7. -/
def Obligations.LutdecDp : Prop :=
  ∀ (s : State) (w : DpWidth), s.params.wellFormed = true →
    let entries := (s.columns (.dp w)).1
    let bits := keptBits (.dp w)
    (s.hlen.toNat = 2 * entries → DecodeFits s (.dp w) →
      ∃ t, exec (.lutdecDp w) s = .next t ∧ EntriesStored s t entries ∧
      ∀ i, i < entries →
        let lo := (s.readHlutWord (2 * i)).toNat
        let hi := (s.readHlutWord (2 * i + 1)).toNat
        (t.readEntry .clut0 i).r.toNat = 2 ^ (16 - bits) * (hi % 2 ^ bits) ∧
        (t.readEntry .clut0 i).g.toNat = 2 ^ (16 - bits) * (lo / 2 ^ 16 % 2 ^ bits) ∧
        (t.readEntry .clut0 i).b.toNat = 2 ^ (16 - bits) * (lo % 2 ^ bits)) ∧
    (s.hlen.toNat ≠ 2 * entries →
      ∃ t, exec (.lutdecDp w) s = .next t ∧ SizeMismatchRaised s t (2 * entries) s.hlen.toNat)

/-! ### The laws of the transcoder (41_lut_transcoder.md) -/

/-- R156: after a LUTENC that ends OK `HLEN` is the shape's word count, of the table of R130 at the default lengths, and
depends on nothing else; one that does not end OK leaves it. The word count for other lengths is log entry 7. -/
def Obligations.EncodedLengthIsFixed : Prop :=
  (∀ (sh : LutShape) (ident : Bool) (s t : State), exec (lutencOf ident sh) s = .next t →
    (s.params.wellFormed = true → EndsWith s t 0 → t.hlen.toNat = (s.columns sh).2.2) ∧
    (¬EndsWith s t 0 → t.hlen = s.hlen)) ∧
  (∀ columns, columns = tableColumns ⟨256, 129, 1024, 512, 1024, 262145, 33, 257, 65⟩ →
    columns .l8 = (256, 256, 256) ∧ columns .i10p6 = (129, 129, 259) ∧ columns .p10 = (1024, 1024, 1024) ∧
    (∀ half, columns (.s10 .h512 half) = (512, 512, 512) ∧ columns (.s10 .h1024 half) = (1024, 1024, 1024)) ∧
    columns .ms124 = (262145, 522, 1045) ∧ columns .mono16 = (33, 33, 33) ∧
    columns (.dp .w10) = (257, 257, 514) ∧ columns (.dp .w14) = (65, 65, 130))

/-- R134: the down-sampling index is 0 at 0 and N - 1 at H - 1, never decreases, and is the identity for N = H; and the
source's reference points. -/
def Obligations.DownsamplingLaws : Prop :=
  ∀ (h n i j : Nat), 2 ≤ h → 1 ≤ n → i ≤ j → j < h →
    downsample n h i = i * (n - 1) / (h - 1) ∧ downsample n h 0 = 0 ∧ downsample n h (h - 1) = n - 1 ∧
    downsample n h i ≤ downsample n h j ∧ downsample n h j ≤ n - 1 ∧ downsample h h j = j ∧
    [0, 1, 256, 511].map (downsample 1025 512) = [0, 2, 513, 1024]

/-- What a LUT keeps through LUTENC and LUTDEC of the same shape (R157): each hardware entry holds the picked source
entry with the bits of each channel the shape drops made zero, and for MONO16 the green channel in all three. Lengths
other than the defaults are log entry 7. -/
def Obligations.EncodeThenDecodeLoss : Prop :=
  ∀ (sh : LutShape) (ident : Bool) (s : State), s.params.wellFormed = true →
    (ident = true ∨ SourceAccepted s sh) → DecodeFits s sh →
    let length := if ident then (s.columns sh).1 else s.clen0.toNat
    ∃ t u, exec (lutencOf ident sh) s = .next t ∧ exec (lutdecOf sh) t = .next u ∧ EndsWith t u 0 ∧
      u.clen0.toNat = (s.columns sh).2.1 ∧
      ∀ k, k < (s.columns sh).2.1 → ∃ e, SourceEntry s ident length (pickedIndex s.params.tables sh length k) e ∧
        let kept := fun c : Chan => c.toNat - c.toNat % 2 ^ (16 - keptBits sh)
        (sh = .mono16 →
          (u.readEntry .clut0 k).r = e.g ∧ (u.readEntry .clut0 k).g = e.g ∧ (u.readEntry .clut0 k).b = e.g) ∧
        (sh ≠ .mono16 →
          (u.readEntry .clut0 k).r.toNat = kept e.r ∧ (u.readEntry .clut0 k).g.toNat = kept e.g ∧
          (u.readEntry .clut0 k).b.toNat = kept e.b)

/-- LUTENC after LUTDEC of the same shape reproduces `HLUT` on the bits LUTENC can set, the ignored bits becoming zero
(R157, R158); for MS124 the decoded length is not a source length and LUTENC faults. Lengths other than the
defaults are log entry 7. -/
def Obligations.DecodeThenEncodeReproduces : Prop :=
  ∀ (sh : LutShape) (s : State), s.params.wellFormed = true → s.hlen.toNat = (s.columns sh).2.2 → DecodeFits s sh →
    ∃ t u, exec (lutdecOf sh) s = .next t ∧ exec (lutencOf false sh) t = .next u ∧
      (sh = .ms124 → SizeMismatchRaised t u s.params.tables.ms 522) ∧
      (sh ≠ .ms124 → EndsWith t u 0 ∧ u.hlen = s.hlen ∧
        ∀ j, j < (s.columns sh).2.2 → u.readHlutWord j = s.readHlutWord j &&& settableBits s.params.tables sh j)

/-! ### The Topology Selector (42_topology.md) -/

/-- R206 with the result of R186: exactly a 256-entry gamma LUT, no degamma and no matrix selects the legacy topology on
every tag, whatever the output format (but the reserved one), the range and C8 are. -/
def Obligations.LegacyOnEveryTag : Prop :=
  ∀ (s : State) (p : Profile), s.params.profiles[s.gen.toNat]? = some p → s.cfg.toNat / 8 % 4 ≠ 3 →
    s.cfg.getLsbD 1 = true → s.gamlen.toNat = 256 → s.cfg.getLsbD 0 = false → s.cfg.getLsbD 2 = false →
    ToposelGives s 0x421 0 0 0 8 0x80

/-- R187 and R202, in their order of precedence (R184): no profile or the reserved output format faults before anything
else; C8 with anything but the legacy LUT faults before the family is looked at; only `STATUS` changes. -/
def Obligations.ToposelFaults : Prop :=
  (∀ s : State, s.params.profiles[s.gen.toNat]? = none ∨ s.cfg.toNat / 8 % 4 = 3 →
    ∃ t, exec .toposel s = .next t ∧ OnlyStatus s t 4) ∧
  (∀ (s : State) (p : Profile), s.params.profiles[s.gen.toNat]? = some p → s.cfg.toNat / 8 % 4 ≠ 3 →
    s.cfg.getLsbD 6 = true →
    ¬(s.cfg.getLsbD 1 = true ∧ s.gamlen.toNat = 256 ∧ s.cfg.getLsbD 0 = false ∧ s.cfg.getLsbD 2 = false) →
    ∃ t, exec .toposel s = .next t ∧ OnlyStatus s t 3)

/-- R195, R196, R198: the families with only tables accept no degamma, no matrix and no YCbCr (and F_I9XX no gamma
either) and ignore the range; F_I965 and F_ILK enable their one gamma table. -/
def Obligations.ToposelTableOnlyFamilies : Prop :=
  ∀ (s : State) (p : Profile), Dispatched s p →
    let d := s.cfg.getLsbD 0
    let g := s.cfg.getLsbD 1
    let c := s.cfg.getLsbD 2
    let y := s.wantsYcbcr
    (p.family = .i9xx → if d || g || c || y then ∃ t, exec .toposel s = .next t ∧ OnlyStatus s t 4
      else ToposelGives s 0 0 0 0 0 (cfmtField p)) ∧
    (p.family = .i965 → if d || c || y then ∃ t, exec .toposel s = .next t ∧ OnlyStatus s t 4
      else if g then ToposelGives s (2 + 0x20) 1 0 0 16 (cfmtField p + 0x81)
      else ToposelGives s 0 0 0 0 0 (cfmtField p)) ∧
    (p.family = .ilk → if d || c || y then ∃ t, exec .toposel s = .next t ∧ OnlyStatus s t 4
      else if g then ToposelGives s (4 + 0x20) 1 0 0 0 (cfmtField p + 0x82)
      else ToposelGives s 0 0 0 0 0 (cfmtField p))

/-- R197, family F_CHV: degamma, CSC and gamma in the CGM unit, in that order, with no output CSC and no YCbCr. That
`LIMCOMP` stays 0 for a profile of this family with `LIMCSC` = 1 is the model's reading, log entry 11. -/
def Obligations.ToposelChv : Prop :=
  ∀ (s : State) (p : Profile), Dispatched s p → p.family = .chv →
    let d := s.cfg.getLsbD 0
    let g := s.cfg.getLsbD 1
    let c := s.cfg.getLsbD 2
    if s.wantsYcbcr then ∃ t, exec .toposel s = .next t ∧ OnlyStatus s t 4
    else
      ToposelGives s
        ((if d || c || g then 7 else 0) + 0x10 * d.toNat + 0x20 * g.toNat + 0x40 * c.toNat + 0x100) 0 0
        (d.toNat + 2 * c.toNat + 4 * g.toNat) (if g then 10 else 0)
        (cfmtField p + (if d then 0x9600 else 0) + if g then 0x86 else 0)

/-- R199, family F_IVB: one table for gamma, degamma or both halves, and the CSC on either side of it; limited range is
reported only with the profile's support. -/
def Obligations.ToposelIvb : Prop :=
  ∀ (s : State) (p : Profile), Dispatched s p → p.family = .ivb →
    let d := s.cfg.getLsbD 0
    let g := s.cfg.getLsbD 1
    let c := s.cfg.getLsbD 2
    let y := s.wantsYcbcr
    let lc := s.cfg.getLsbD 5 && p.limCsc
    let before := !(d || y || lc)
    ToposelGives s
      ((if g && d then 5 else if g then (if before then 3 else 4) else if d then 4 else 0) +
        0x10 * d.toNat + 0x20 * g.toNat + 0x40 * (c || y || lc).toNat + 0x100 * before.toNat + 0x800 * lc.toNat)
      (if g && d then 3 else if g || d then 1 else 0) (if before then 2 else 0) 0
      (if g && before then 10 else 0)
      (cfmtField p + (if d then (if g then 0x8300 else 0x8200) else 0) + if g then (if d then 0xA3 else 0x82) else 0)

/-- R200, family F_GLK: a CSC enable brings the degamma stage with it, and then an identity table is requested where no
degamma was. -/
def Obligations.ToposelGlk : Prop :=
  ∀ (s : State) (p : Profile), Dispatched s p → p.family = .glk →
    let d := s.cfg.getLsbD 0
    let g := s.cfg.getLsbD 1
    let c := s.cfg.getLsbD 2
    let l := s.cfg.getLsbD 5
    let ce := d || c || s.wantsYcbcr || l
    ToposelGives s
      ((if g then 3 else 0) + 0x10 * ce.toNat + 0x20 * g.toNat + 0x40 * ce.toNat + 0x100 +
        0x200 * (ce && !d).toNat + 0x800 * (l && p.limCsc).toNat)
      (if g then 1 else 0) 0 0 (if g then 10 else 0)
      (cfmtField p + (if ce then 0x8500 else 0) + if g then 0x82 else 0)

/-- R201, family F_ICL: four stages, each with its own enable; limited range and YCbCr are the output CSC's. That `LIMCOMP`
stays 0 for a profile of this family with `LIMCSC` = 1 is the model's reading, log entry 11. -/
def Obligations.ToposelIcl : Prop :=
  ∀ (s : State) (p : Profile), Dispatched s p → p.family = .icl →
    let d := s.cfg.getLsbD 0
    let g := s.cfg.getLsbD 1
    let c := s.cfg.getLsbD 2
    let out := s.wantsYcbcr || s.cfg.getLsbD 5
    ToposelGives s
      ((if g then 6 else 0) + 0x10 * d.toNat + 0x20 * g.toNat + 0x40 * c.toNat + 0x80 * out.toNat + 0x100)
      (0x80000000 * d.toNat + 0x40000000 * g.toNat + if g then 3 else 0)
      (0x80000000 * c.toNat + 0x40000000 * out.toNat) 0 (if g then 16 else 0)
      (cfmtField p + (if d then 0x8500 else 0) + if g then 0x84 else 0)

/-- What holds of every OK result (R203, R208): the legacy word, which family can set what, LIMCOMP with the pipe CSC,
the precision and the gamma shape with the gamma stage, the degamma shape with the degamma stage. -/
def Obligations.ToposelResultInvariants : Prop :=
  ∀ (s t : State) (p : Profile), s.params.wellFormed = true → s.params.profiles[s.gen.toNat]? = some p →
    exec .toposel s = .next t → EndsWith s t 0 →
    (t.topo.getLsbD 10 = true → t.topo = 0x421) ∧
    (t.topo.getLsbD 7 = true → p.family = .icl) ∧
    (t.cgmMode ≠ 0 → p.family = .chv) ∧
    (t.topo.getLsbD 9 = true → p.family = .glk ∧ t.topo.getLsbD 4 = true ∧ s.cfg.getLsbD 0 = false) ∧
    (t.topo.getLsbD 11 = true ↔
      t.topo.getLsbD 10 = false ∧ s.cfg.getLsbD 5 = true ∧ p.limCsc = true ∧ t.topo.getLsbD 6 = true) ∧
    (t.prec ≠ 0 → t.topo.getLsbD 5 = true) ∧
    (t.lutfmt.getLsbD 7 = t.topo.getLsbD 5) ∧ (t.lutfmt.getLsbD 15 = t.topo.getLsbD 4)

/-- R205: TOPOSEL ends with exactly one of OK, INCOMPATIBLE_INDEXED_MODE and UNSUPPORTED_COMBINATION, and its code and
results are a function of `GEN`, `CFG`, `GAMLEN` and the profile table alone. -/
def Obligations.ToposelIsAFunctionOfItsInputs : Prop :=
  ∀ s s' : State, s'.gen = s.gen → s'.cfg = s.cfg → s'.gamlen = s.gamlen →
    s'.params.profiles = s.params.profiles →
    ∃ t t' code, exec .toposel s = .next t ∧ exec .toposel s' = .next t' ∧ code ∈ [0, 3, 4] ∧
      EndsWith s t code ∧ EndsWith s' t' code ∧
      (code = 0 → t'.topo = t.topo ∧ t'.gammaMode = t.gammaMode ∧ t'.cscMode = t.cscMode ∧
        t'.cgmMode = t.cgmMode ∧ t'.prec = t.prec ∧ t'.lutfmt = t.lutfmt)

/-- The shape bytes an OK TOPOSEL gives are commands (R37, R191): a valid byte's SHAPE and ARG fields put into a LUTENC
word decode, also with `ID`, and a byte that is not valid is 0. -/
def Obligations.ShapeBytesAreCommands : Prop :=
  ∀ (s t : State) (byte : Nat), exec .toposel s = .next t → EndsWith s t 0 →
    (byte = t.lutfmt.toNat % 2 ^ 8 ∨ byte = t.lutfmt.toNat / 2 ^ 8 % 2 ^ 8) →
    (byte < 0x80 → byte = 0) ∧
    (0x80 ≤ byte → byte / 0x40 % 2 = 0 ∧ ∃ sh,
      decode (BitVec.ofNat 32 (0x10000000 + 2 ^ 20 * (byte % 16) + 2 ^ 16 * (byte / 16 % 4))) =
        .ok (lutencOf false sh) ∧
      decode (BitVec.ofNat 32 (0x10000000 + 2 ^ 20 * (byte % 16) + 2 ^ 16 * (byte / 16 % 4) + 2 ^ 8)) =
        .ok (lutencOf true sh))

/-! ### The comparator (43_equality.md) -/

/-- LUTCMP (R231, R232): a length above the capacity faults; unequal lengths are unequal with index `0xFFFFFFFF`; the
first mismatching entry is named; otherwise the two are equal. Nothing else changes. -/
def Obligations.LutcmpReports : Prop :=
  ∀ s : State, s.params.wellFormed = true →
    (s.params.clutCap < s.clen0.toNat ∨ s.params.clutCap < s.clen1.toNat →
      ∃ t, exec .lutcmp s = .next t ∧
        SizeMismatchRaised s t s.params.clutCap (max s.clen0.toNat s.clen1.toNat)) ∧
    (s.clen0.toNat ≤ s.params.clutCap → s.clen1.toNat ≤ s.params.clutCap →
      ∃ t, exec .lutcmp s = .next t ∧ EndsWith s t 0 ∧
        t = { s with cmpres := t.cmpres, cmpidx := t.cmpidx, status := t.status } ∧
        (s.clen0 ≠ s.clen1 → t.cmpres = 0 ∧ t.cmpidx = 0xFFFFFFFF) ∧
        (∀ i, s.clen0 = s.clen1 → i < s.clen0.toNat → ¬s.EntriesClose i → (∀ j, j < i → s.EntriesClose j) →
          t.cmpres = 0 ∧ t.cmpidx.toNat = i) ∧
        (s.clen0 = s.clen1 → (∀ i, i < s.clen0.toNat → s.EntriesClose i) → t.cmpres = 1 ∧ t.cmpidx = 0))

/-- A LUT equals its own round trip (R231, R157): with the same LUT in both buffers, LUTENC and LUTDEC of any shape that
keeps its length and its channels, then LUTCMP at a precision the shape keeps, report equality. -/
def Obligations.RoundTripComparesEqual : Prop :=
  ∀ (sh : LutShape) (s : State), s.params.wellFormed = true → sh ≠ .ms124 → sh ≠ .mono16 →
    SourceAccepted s sh → DecodeFits s sh → s.clen0.toNat = (s.columns sh).1 → s.clen1 = s.clen0 →
    (∀ i, i < s.clen0.toNat → s.readEntry .clut1 i = s.readEntry .clut0 i) →
    (keptBits sh = 16 ∨ s.precIn.toNat ≤ keptBits sh) →
    ∃ t u v, exec (lutencOf false sh) s = .next t ∧ exec (lutdecOf sh) t = .next u ∧ exec .lutcmp u = .next v ∧
      EndsWith u v 0 ∧ v.cmpres = 1 ∧ v.cmpidx = 0

/-! ### Capacities (20_memory.md) -/

/-- R57: every operation checks the capacities and faults with SIZE_MISMATCH instead of going beyond one: a LUTENC, with or
without `ID`, whose words do not fit `HLUT`, a LUTDEC whose words or entries do not fit, and a LUTCMP of a length above
`CLUT_CAP`; only `STATUS` and the error registers change. A LUTENC or LUTDEC that ends OK fits. The order of the checks and
the lengths recorded are the model's, log entries 13 and 20. -/
def Obligations.NoOperationGoesBeyondACapacity : Prop :=
  (∀ (sh : LutShape) (ident : Bool) (s : State),
    (¬EncodeFits s sh → ∃ t, exec (lutencOf ident sh) s = .next t ∧ SizeMismatchOnly s t) ∧
    (s.params.clutCap < s.clen0.toNat → ∃ t, exec (lutencOf false sh) s = .next t ∧ SizeMismatchOnly s t) ∧
    (¬DecodeFits s sh → ∃ t, exec (lutdecOf sh) s = .next t ∧ SizeMismatchOnly s t) ∧
    (∀ t, exec (lutencOf ident sh) s = .next t → EndsWith s t 0 → EncodeFits s sh) ∧
    (∀ t, exec (lutdecOf sh) s = .next t → EndsWith s t 0 → DecodeFits s sh)) ∧
  (∀ s : State, s.params.clutCap < s.clen0.toNat ∨ s.params.clutCap < s.clen1.toNat →
    ∃ t, exec .lutcmp s = .next t ∧ SizeMismatchOnly s t)
end

