-- ==== Sys2Proof/Laws/Bits.lean ====
section
/-! SUPPORT. The bits of a lane and of a flag, and the numbers that lanes put together make. -/

namespace Sys2Proof

@[simp] theorem getLsbD_lane (w : Nat) {k : Nat} (x : BitVec k) (pos i : Nat) :
    (lane w x pos).getLsbD i = (decide (i < w) && (decide (pos ≤ i) && x.getLsbD (i - pos))) := by
  simp only [lane, BitVec.getLsbD_shiftLeft, BitVec.getLsbD_setWidth]
  by_cases h1 : i < w
  · have h3 : i - pos < w := by omega
    by_cases h2 : pos ≤ i <;> simp [h1, h2, h3]
  · simp [h1]

@[simp] theorem getElem_lane (w : Nat) {k : Nat} (x : BitVec k) (pos i : Nat) (h : i < w) :
    (lane w x pos)[i] = (decide (pos ≤ i) && x.getLsbD (i - pos)) := by
  rw [← BitVec.getLsbD_eq_getElem, getLsbD_lane]
  simp [h]

@[simp] theorem getLsbD_flag (w : Nat) (b : Bool) (pos i : Nat) :
    (flag w b pos).getLsbD i = (decide (i < w) && (decide (i = pos) && b)) := by
  rw [flag, getLsbD_lane]
  by_cases h : i = pos
  · subst h; simp
  · by_cases h2 : pos ≤ i
    · simp [h, h2, BitVec.getLsbD_ofBool, show i - pos ≠ 0 by omega]
    · simp [h, h2]

@[simp] theorem getElem_flag (w : Nat) (b : Bool) (pos i : Nat) (h : i < w) :
    (flag w b pos)[i] = (decide (i = pos) && b) := by
  rw [← BitVec.getLsbD_eq_getElem, getLsbD_flag]
  simp [h]

/-! ### Numbers -/

/-- A lane that fits is its field times a power of two. -/
theorem toNat_lane {w k : Nat} (x : BitVec k) (pos : Nat) (h : pos + k ≤ w) :
    (lane w x pos).toNat = x.toNat * 2 ^ pos := by
  have hx : x.toNat * 2 ^ pos < 2 ^ w :=
    calc x.toNat * 2 ^ pos < 2 ^ k * 2 ^ pos := Nat.mul_lt_mul_of_pos_right x.isLt (Nat.two_pow_pos _)
      _ = 2 ^ (pos + k) := by rw [← Nat.pow_add, Nat.add_comm]
      _ ≤ 2 ^ w := Nat.pow_le_pow_right (by decide) h
  have hk : x.toNat < 2 ^ w := Nat.lt_of_lt_of_le x.isLt (Nat.pow_le_pow_right (by decide) (by omega))
  rw [lane, BitVec.toNat_shiftLeft, BitVec.toNat_setWidth, Nat.mod_eq_of_lt hk, Nat.shiftLeft_eq,
    Nat.mod_eq_of_lt hx]

/-- A lane put below what lies above it adds up. -/
theorem toNat_or_lane {w k : Nat} (y : BitVec w) (x : BitVec k) (pos : Nat) (h : pos + k ≤ w)
    (hy : y.toNat % 2 ^ (pos + k) = 0) : (y ||| lane w x pos).toNat = y.toNat + x.toNat * 2 ^ pos := by
  have hx : x.toNat * 2 ^ pos < 2 ^ (pos + k) :=
    calc x.toNat * 2 ^ pos < 2 ^ k * 2 ^ pos := Nat.mul_lt_mul_of_pos_right x.isLt (Nat.two_pow_pos _)
      _ = 2 ^ (pos + k) := by rw [← Nat.pow_add, Nat.add_comm]
  rw [BitVec.toNat_or, toNat_lane x pos h]
  obtain ⟨q, hq⟩ := Nat.dvd_of_mod_eq_zero hy
  rw [hq, Nat.mul_comm, ← Nat.shiftLeft_eq, Nat.shiftLeft_add_eq_or_of_lt hx]

/-- A flag that fits is a power of two or nothing. -/
theorem toNat_flag {w : Nat} (b : Bool) (pos : Nat) (h : pos < w) : (flag w b pos).toNat = b.toNat * 2 ^ pos := by
  rw [flag, toNat_lane _ _ (by omega), BitVec.toNat_ofBool]

end Sys2Proof
end

