-- ==== Sys2Proof/Laws/OperandFiles.lean ====
section
/-! SUPPORT. The laws of the operand files. -/

namespace Sys2Proof

namespace Nine

variable {α β : Type}

@[simp] theorem get_fill (a : α) (i : Fin 9) : (fill a).get i = a := by
  fin_cases i <;> rfl

@[simp] theorem get_map (f : α → β) (x : Nine α) (i : Fin 9) : (x.map f).get i = f (x.get i) := by
  fin_cases i <;> rfl

@[simp] theorem get_set_same (x : Nine α) (i : Fin 9) (a : α) : (x.set i a).get i = a := by
  fin_cases i <;> rfl

theorem get_set_other (x : Nine α) {i j : Fin 9} (a : α) (h : j ≠ i) : (x.set i a).get j = x.get j := by
  fin_cases i <;> fin_cases j <;> first | rfl | exact absurd rfl h

/-- Two files with the same elements are the same file. -/
theorem ext_get {x y : Nine α} (h : ∀ i, x.get i = y.get i) : x = y := by
  obtain ⟨⟩ := x
  obtain ⟨⟩ := y
  simp only [Nine.mk.injEq]
  exact ⟨h 0, h 1, h 2, h 3, h 4, h 5, h 6, h 7, h 8⟩

/-- Bit `i` of nine flags is flag `i`. -/
theorem getLsbD_toBits (x : Nine Bool) (i : Fin 9) : x.toBits.getLsbD i = x.get i := by
  obtain ⟨c0, c1, c2, c3, c4, c5, c6, c7, c8⟩ := x
  fin_cases i <;> simp [toBits, get]

/-- All nine are there exactly when each is. -/
theorem sequence_eq_some {x : Nine (Option α)} {y : Nine α} :
    x.sequence = some y ↔ ∀ i, x.get i = some (y.get i) := by
  obtain ⟨c0, c1, c2, c3, c4, c5, c6, c7, c8⟩ := x
  obtain ⟨d0, d1, d2, d3, d4, d5, d6, d7, d8⟩ := y
  constructor
  · intro h
    simp only [sequence] at h
    split at h
    · simp only [Option.some.injEq, Nine.mk.injEq] at h
      obtain ⟨rfl, rfl, rfl, rfl, rfl, rfl, rfl, rfl, rfl⟩ := h
      intro i
      fin_cases i <;> rfl
    · simp at h
  · intro h
    have h0 := h 0; have h1 := h 1; have h2 := h 2; have h3 := h 3; have h4 := h 4
    have h5 := h 5; have h6 := h 6; have h7 := h 7; have h8 := h 8
    simp only [get] at h0 h1 h2 h3 h4 h5 h6 h7 h8
    subst h0 h1 h2 h3 h4 h5 h6 h7 h8
    rfl

/-- One missing value and there is no file. -/
theorem sequence_eq_none {x : Nine (Option α)} : x.sequence = none ↔ ∃ i, x.get i = none := by
  constructor
  · intro h
    by_contra hc
    have hs : ∀ i, ∃ a, x.get i = some a := fun i =>
      Option.ne_none_iff_exists'.mp fun hi => hc ⟨i, hi⟩
    choose f hf using hs
    have : x.sequence = some ⟨f 0, f 1, f 2, f 3, f 4, f 5, f 6, f 7, f 8⟩ :=
      sequence_eq_some.mpr fun i => by rw [hf i]; fin_cases i <;> rfl
    rw [h] at this
    cases this
  · rintro ⟨i, hi⟩
    cases hx : x.sequence with
    | none => rfl
    | some y => rw [sequence_eq_some.mp hx i] at hi; cases hi

end Nine

namespace Three

variable {α : Type}

@[simp] theorem get_fill (a : α) (k : Fin 3) : (fill a).get k = a := by
  fin_cases k <;> rfl

@[simp] theorem get_set_same (x : Three α) (k : Fin 3) (a : α) : (x.set k a).get k = a := by
  fin_cases k <;> rfl

theorem get_set_other (x : Three α) {k j : Fin 3} (a : α) (h : j ≠ k) : (x.set k a).get j = x.get j := by
  fin_cases k <;> fin_cases j <;> first | rfl | exact absurd rfl h

end Three

end Sys2Proof
end

