-- ==== Sys2Proof/Laws/Flags.lean ====
section
/-! SUPPORT. The laws of `STATUS` and `SAT`: each field reads back what its update put there. -/

namespace Sys2Proof.Machine

@[simp] theorem statusCode_statusOf (sticky : BitVec 8) (code : BitVec 4) :
    statusCode (statusOf sticky code) = code := by
  ext i hi
  simp [statusCode, statusOf, show i < 16 by omega, show ¬ 8 ≤ i by omega, hi]

@[simp] theorem statusSticky_statusOf (sticky : BitVec 8) (code : BitVec 4) :
    statusSticky (statusOf sticky code) = sticky := by
  ext i hi
  have h : code.getLsbD (8 + i) = false := BitVec.getLsbD_of_ge _ _ (by omega)
  simp [statusSticky, statusOf, show 8 + i < 16 by omega, hi, h]

@[simp] theorem statusCode_finish (code : BitVec 4) (st : BitVec 16) :
    statusCode (statusFinish code st) = code := statusCode_statusOf _ _

@[simp] theorem statusSticky_finish (code : BitVec 4) (st : BitVec 16) :
    statusSticky (statusFinish code st) = statusSticky st := statusSticky_statusOf _ _

@[simp] theorem statusCode_raise (code : BitVec 4) (st : BitVec 16) :
    statusCode (statusRaise code st) = code := statusCode_statusOf _ _

@[simp] theorem statusSticky_raise (code : BitVec 4) (st : BitVec 16) :
    statusSticky (statusRaise code st) = statusSticky st ||| 1#8 <<< code.toNat :=
  statusSticky_statusOf _ _

/-- A fault's code is one of 2 to 6. -/
theorem OpFault.code_range (f : OpFault) : 2 ≤ f.code.toNat ∧ f.code.toNat ≤ 6 := by
  cases f <;> exact ⟨by simp [OpFault.code], by simp [OpFault.code]⟩

/-- Bit `i` of `SAT` is the coefficient's magnitude flag. -/
theorem satOf_magSat (magSat mantSat : Nine Bool) (i : Fin 9) :
    (satOf magSat mantSat).getLsbD i = magSat.get i := by
  have h : i.val < 9 := i.isLt
  rw [← Nine.getLsbD_toBits]
  simp [satOf, show i.val < 25 by omega, show ¬ 16 ≤ i.val by omega]

/-- Bit 16 + `i` of `SAT` is the coefficient's mantissa flag. -/
theorem satOf_mantSat (magSat mantSat : Nine Bool) (i : Fin 9) :
    (satOf magSat mantSat).getLsbD (16 + i) = mantSat.get i := by
  rw [← Nine.getLsbD_toBits]
  have h : magSat.toBits.getLsbD (16 + i.val) = false := BitVec.getLsbD_of_ge _ _ (by omega)
  simp [satOf, show 16 + i.val < 25 by omega, h]

end Sys2Proof.Machine
end

