-- ==== Sys2Proof/Laws/State.lean ====
section
/-! SUPPORT. One lemma per field of each named update of the state. -/

namespace Sys2Proof.Machine

variable (s : State)

/-! ### `State.finish` -/

@[simp] theorem State.finish_cmd (code : BitVec 4) : (s.finish code).cmd = s.cmd := rfl
@[simp] theorem State.finish_status (code : BitVec 4) :
    (s.finish code).status = statusFinish code s.status := rfl
@[simp] theorem State.finish_errExpected (code : BitVec 4) :
    (s.finish code).errExpected = s.errExpected := rfl
@[simp] theorem State.finish_errActual (code : BitVec 4) : (s.finish code).errActual = s.errActual := rfl
@[simp] theorem State.finish_gen (code : BitVec 4) : (s.finish code).gen = s.gen := rfl
@[simp] theorem State.finish_cfg (code : BitVec 4) : (s.finish code).cfg = s.cfg := rfl
@[simp] theorem State.finish_deglen (code : BitVec 4) : (s.finish code).deglen = s.deglen := rfl
@[simp] theorem State.finish_gamlen (code : BitVec 4) : (s.finish code).gamlen = s.gamlen := rfl
@[simp] theorem State.finish_precIn (code : BitVec 4) : (s.finish code).precIn = s.precIn := rfl
@[simp] theorem State.finish_clen0 (code : BitVec 4) : (s.finish code).clen0 = s.clen0 := rfl
@[simp] theorem State.finish_clen1 (code : BitVec 4) : (s.finish code).clen1 = s.clen1 := rfl
@[simp] theorem State.finish_hlen (code : BitVec 4) : (s.finish code).hlen = s.hlen := rfl
@[simp] theorem State.finish_hbase (code : BitVec 4) : (s.finish code).hbase = s.hbase := rfl
@[simp] theorem State.finish_sat (code : BitVec 4) : (s.finish code).sat = s.sat := rfl
@[simp] theorem State.finish_cmpres (code : BitVec 4) : (s.finish code).cmpres = s.cmpres := rfl
@[simp] theorem State.finish_cmpidx (code : BitVec 4) : (s.finish code).cmpidx = s.cmpidx := rfl
@[simp] theorem State.finish_topo (code : BitVec 4) : (s.finish code).topo = s.topo := rfl
@[simp] theorem State.finish_gammaMode (code : BitVec 4) : (s.finish code).gammaMode = s.gammaMode := rfl
@[simp] theorem State.finish_cscMode (code : BitVec 4) : (s.finish code).cscMode = s.cscMode := rfl
@[simp] theorem State.finish_cgmMode (code : BitVec 4) : (s.finish code).cgmMode = s.cgmMode := rfl
@[simp] theorem State.finish_prec (code : BitVec 4) : (s.finish code).prec = s.prec := rfl
@[simp] theorem State.finish_lutfmt (code : BitVec 4) : (s.finish code).lutfmt = s.lutfmt := rfl
@[simp] theorem State.finish_m (code : BitVec 4) : (s.finish code).m = s.m := rfl
@[simp] theorem State.finish_ec (code : BitVec 4) : (s.finish code).ec = s.ec := rfl
@[simp] theorem State.finish_pre (code : BitVec 4) : (s.finish code).pre = s.pre := rfl
@[simp] theorem State.finish_post (code : BitVec 4) : (s.finish code).post = s.post := rfl
@[simp] theorem State.finish_clut0 (code : BitVec 4) : (s.finish code).clut0 = s.clut0 := rfl
@[simp] theorem State.finish_clut1 (code : BitVec 4) : (s.finish code).clut1 = s.clut1 := rfl
@[simp] theorem State.finish_hlut (code : BitVec 4) : (s.finish code).hlut = s.hlut := rfl
@[simp] theorem State.finish_params (code : BitVec 4) : (s.finish code).params = s.params := rfl
@[simp] theorem State.finish_powerUp (code : BitVec 4) : (s.finish code).powerUp = s.powerUp := rfl
@[simp] theorem State.finish_pending (code : BitVec 4) : (s.finish code).pending = s.pending := rfl
@[simp] theorem State.finish_readLog (code : BitVec 4) : (s.finish code).readLog = s.readLog := rfl

/-! ### `State.raise` -/

@[simp] theorem State.raise_cmd (f : OpFault) : (s.raise f).cmd = s.cmd := rfl
@[simp] theorem State.raise_status (f : OpFault) : (s.raise f).status = statusRaise f.code s.status := rfl
@[simp] theorem State.raise_errExpected (f : OpFault) :
    (s.raise f).errExpected = f.expected.getD s.errExpected := rfl
@[simp] theorem State.raise_errActual (f : OpFault) :
    (s.raise f).errActual = f.actual.getD s.errActual := rfl
@[simp] theorem State.raise_gen (f : OpFault) : (s.raise f).gen = s.gen := rfl
@[simp] theorem State.raise_cfg (f : OpFault) : (s.raise f).cfg = s.cfg := rfl
@[simp] theorem State.raise_deglen (f : OpFault) : (s.raise f).deglen = s.deglen := rfl
@[simp] theorem State.raise_gamlen (f : OpFault) : (s.raise f).gamlen = s.gamlen := rfl
@[simp] theorem State.raise_precIn (f : OpFault) : (s.raise f).precIn = s.precIn := rfl
@[simp] theorem State.raise_clen0 (f : OpFault) : (s.raise f).clen0 = s.clen0 := rfl
@[simp] theorem State.raise_clen1 (f : OpFault) : (s.raise f).clen1 = s.clen1 := rfl
@[simp] theorem State.raise_hlen (f : OpFault) : (s.raise f).hlen = s.hlen := rfl
@[simp] theorem State.raise_hbase (f : OpFault) : (s.raise f).hbase = s.hbase := rfl
@[simp] theorem State.raise_sat (f : OpFault) : (s.raise f).sat = s.sat := rfl
@[simp] theorem State.raise_cmpres (f : OpFault) : (s.raise f).cmpres = s.cmpres := rfl
@[simp] theorem State.raise_cmpidx (f : OpFault) : (s.raise f).cmpidx = s.cmpidx := rfl
@[simp] theorem State.raise_topo (f : OpFault) : (s.raise f).topo = s.topo := rfl
@[simp] theorem State.raise_gammaMode (f : OpFault) : (s.raise f).gammaMode = s.gammaMode := rfl
@[simp] theorem State.raise_cscMode (f : OpFault) : (s.raise f).cscMode = s.cscMode := rfl
@[simp] theorem State.raise_cgmMode (f : OpFault) : (s.raise f).cgmMode = s.cgmMode := rfl
@[simp] theorem State.raise_prec (f : OpFault) : (s.raise f).prec = s.prec := rfl
@[simp] theorem State.raise_lutfmt (f : OpFault) : (s.raise f).lutfmt = s.lutfmt := rfl
@[simp] theorem State.raise_m (f : OpFault) : (s.raise f).m = s.m := rfl
@[simp] theorem State.raise_ec (f : OpFault) : (s.raise f).ec = s.ec := rfl
@[simp] theorem State.raise_pre (f : OpFault) : (s.raise f).pre = s.pre := rfl
@[simp] theorem State.raise_post (f : OpFault) : (s.raise f).post = s.post := rfl
@[simp] theorem State.raise_clut0 (f : OpFault) : (s.raise f).clut0 = s.clut0 := rfl
@[simp] theorem State.raise_clut1 (f : OpFault) : (s.raise f).clut1 = s.clut1 := rfl
@[simp] theorem State.raise_hlut (f : OpFault) : (s.raise f).hlut = s.hlut := rfl
@[simp] theorem State.raise_params (f : OpFault) : (s.raise f).params = s.params := rfl
@[simp] theorem State.raise_powerUp (f : OpFault) : (s.raise f).powerUp = s.powerUp := rfl
@[simp] theorem State.raise_pending (f : OpFault) : (s.raise f).pending = s.pending := rfl
@[simp] theorem State.raise_readLog (f : OpFault) : (s.raise f).readLog = s.readLog := rfl

/-! ### `State.storeMatrix` -/

@[simp] theorem State.storeMatrix_cmd (p : Profile) (words : Nine (BitVec 16)) (magSat mantSat : Nine Bool) :
    (s.storeMatrix p words magSat mantSat).cmd = s.cmd := rfl
@[simp] theorem State.storeMatrix_status (p : Profile) (words : Nine (BitVec 16)) (magSat mantSat : Nine Bool) :
    (s.storeMatrix p words magSat mantSat).status = statusFinish codeOk s.status := rfl
@[simp] theorem State.storeMatrix_errExpected (p : Profile) (words : Nine (BitVec 16)) (magSat mantSat : Nine Bool) :
    (s.storeMatrix p words magSat mantSat).errExpected = s.errExpected := rfl
@[simp] theorem State.storeMatrix_errActual (p : Profile) (words : Nine (BitVec 16)) (magSat mantSat : Nine Bool) :
    (s.storeMatrix p words magSat mantSat).errActual = s.errActual := rfl
@[simp] theorem State.storeMatrix_gen (p : Profile) (words : Nine (BitVec 16)) (magSat mantSat : Nine Bool) :
    (s.storeMatrix p words magSat mantSat).gen = s.gen := rfl
@[simp] theorem State.storeMatrix_cfg (p : Profile) (words : Nine (BitVec 16)) (magSat mantSat : Nine Bool) :
    (s.storeMatrix p words magSat mantSat).cfg = s.cfg := rfl
@[simp] theorem State.storeMatrix_deglen (p : Profile) (words : Nine (BitVec 16)) (magSat mantSat : Nine Bool) :
    (s.storeMatrix p words magSat mantSat).deglen = s.deglen := rfl
@[simp] theorem State.storeMatrix_gamlen (p : Profile) (words : Nine (BitVec 16)) (magSat mantSat : Nine Bool) :
    (s.storeMatrix p words magSat mantSat).gamlen = s.gamlen := rfl
@[simp] theorem State.storeMatrix_precIn (p : Profile) (words : Nine (BitVec 16)) (magSat mantSat : Nine Bool) :
    (s.storeMatrix p words magSat mantSat).precIn = s.precIn := rfl
@[simp] theorem State.storeMatrix_clen0 (p : Profile) (words : Nine (BitVec 16)) (magSat mantSat : Nine Bool) :
    (s.storeMatrix p words magSat mantSat).clen0 = s.clen0 := rfl
@[simp] theorem State.storeMatrix_clen1 (p : Profile) (words : Nine (BitVec 16)) (magSat mantSat : Nine Bool) :
    (s.storeMatrix p words magSat mantSat).clen1 = s.clen1 := rfl
@[simp] theorem State.storeMatrix_hlen (p : Profile) (words : Nine (BitVec 16)) (magSat mantSat : Nine Bool) :
    (s.storeMatrix p words magSat mantSat).hlen = s.hlen := rfl
@[simp] theorem State.storeMatrix_hbase (p : Profile) (words : Nine (BitVec 16)) (magSat mantSat : Nine Bool) :
    (s.storeMatrix p words magSat mantSat).hbase = s.hbase := rfl
@[simp] theorem State.storeMatrix_sat (p : Profile) (words : Nine (BitVec 16)) (magSat mantSat : Nine Bool) :
    (s.storeMatrix p words magSat mantSat).sat = satOf magSat mantSat := rfl
@[simp] theorem State.storeMatrix_cmpres (p : Profile) (words : Nine (BitVec 16)) (magSat mantSat : Nine Bool) :
    (s.storeMatrix p words magSat mantSat).cmpres = s.cmpres := rfl
@[simp] theorem State.storeMatrix_cmpidx (p : Profile) (words : Nine (BitVec 16)) (magSat mantSat : Nine Bool) :
    (s.storeMatrix p words magSat mantSat).cmpidx = s.cmpidx := rfl
@[simp] theorem State.storeMatrix_topo (p : Profile) (words : Nine (BitVec 16)) (magSat mantSat : Nine Bool) :
    (s.storeMatrix p words magSat mantSat).topo = s.topo := rfl
@[simp] theorem State.storeMatrix_gammaMode (p : Profile) (words : Nine (BitVec 16)) (magSat mantSat : Nine Bool) :
    (s.storeMatrix p words magSat mantSat).gammaMode = s.gammaMode := rfl
@[simp] theorem State.storeMatrix_cscMode (p : Profile) (words : Nine (BitVec 16)) (magSat mantSat : Nine Bool) :
    (s.storeMatrix p words magSat mantSat).cscMode = s.cscMode := rfl
@[simp] theorem State.storeMatrix_cgmMode (p : Profile) (words : Nine (BitVec 16)) (magSat mantSat : Nine Bool) :
    (s.storeMatrix p words magSat mantSat).cgmMode = s.cgmMode := rfl
@[simp] theorem State.storeMatrix_prec (p : Profile) (words : Nine (BitVec 16)) (magSat mantSat : Nine Bool) :
    (s.storeMatrix p words magSat mantSat).prec = s.prec := rfl
@[simp] theorem State.storeMatrix_lutfmt (p : Profile) (words : Nine (BitVec 16)) (magSat mantSat : Nine Bool) :
    (s.storeMatrix p words magSat mantSat).lutfmt = s.lutfmt := rfl
@[simp] theorem State.storeMatrix_m (p : Profile) (words : Nine (BitVec 16)) (magSat mantSat : Nine Bool) :
    (s.storeMatrix p words magSat mantSat).m = s.m := rfl
@[simp] theorem State.storeMatrix_ec (p : Profile) (words : Nine (BitVec 16)) (magSat mantSat : Nine Bool) :
    (s.storeMatrix p words magSat mantSat).ec = words := rfl
@[simp] theorem State.storeMatrix_pre (p : Profile) (words : Nine (BitVec 16)) (magSat mantSat : Nine Bool) :
    (s.storeMatrix p words magSat mantSat).pre = Three.fill 0 := rfl
@[simp] theorem State.storeMatrix_post (p : Profile) (words : Nine (BitVec 16)) (magSat mantSat : Nine Bool) :
    (s.storeMatrix p words magSat mantSat).post = Three.fill (if prepassRuns p s.cfg then s.params.postoffLim else 0) := rfl
@[simp] theorem State.storeMatrix_clut0 (p : Profile) (words : Nine (BitVec 16)) (magSat mantSat : Nine Bool) :
    (s.storeMatrix p words magSat mantSat).clut0 = s.clut0 := rfl
@[simp] theorem State.storeMatrix_clut1 (p : Profile) (words : Nine (BitVec 16)) (magSat mantSat : Nine Bool) :
    (s.storeMatrix p words magSat mantSat).clut1 = s.clut1 := rfl
@[simp] theorem State.storeMatrix_hlut (p : Profile) (words : Nine (BitVec 16)) (magSat mantSat : Nine Bool) :
    (s.storeMatrix p words magSat mantSat).hlut = s.hlut := rfl
@[simp] theorem State.storeMatrix_params (p : Profile) (words : Nine (BitVec 16)) (magSat mantSat : Nine Bool) :
    (s.storeMatrix p words magSat mantSat).params = s.params := rfl
@[simp] theorem State.storeMatrix_powerUp (p : Profile) (words : Nine (BitVec 16)) (magSat mantSat : Nine Bool) :
    (s.storeMatrix p words magSat mantSat).powerUp = s.powerUp := rfl
@[simp] theorem State.storeMatrix_pending (p : Profile) (words : Nine (BitVec 16)) (magSat mantSat : Nine Bool) :
    (s.storeMatrix p words magSat mantSat).pending = s.pending := rfl
@[simp] theorem State.storeMatrix_readLog (p : Profile) (words : Nine (BitVec 16)) (magSat mantSat : Nine Bool) :
    (s.storeMatrix p words magSat mantSat).readLog = s.readLog := rfl

/-! ### `State.storeTable` -/

@[simp] theorem State.storeTable_cmd (sh : LutShape) (words : List Word) :
    (s.storeTable sh words).cmd = s.cmd := rfl
@[simp] theorem State.storeTable_status (sh : LutShape) (words : List Word) :
    (s.storeTable sh words).status = statusFinish codeOk s.status := rfl
@[simp] theorem State.storeTable_errExpected (sh : LutShape) (words : List Word) :
    (s.storeTable sh words).errExpected = s.errExpected := rfl
@[simp] theorem State.storeTable_errActual (sh : LutShape) (words : List Word) :
    (s.storeTable sh words).errActual = s.errActual := rfl
@[simp] theorem State.storeTable_gen (sh : LutShape) (words : List Word) :
    (s.storeTable sh words).gen = s.gen := rfl
@[simp] theorem State.storeTable_cfg (sh : LutShape) (words : List Word) :
    (s.storeTable sh words).cfg = s.cfg := rfl
@[simp] theorem State.storeTable_deglen (sh : LutShape) (words : List Word) :
    (s.storeTable sh words).deglen = s.deglen := rfl
@[simp] theorem State.storeTable_gamlen (sh : LutShape) (words : List Word) :
    (s.storeTable sh words).gamlen = s.gamlen := rfl
@[simp] theorem State.storeTable_precIn (sh : LutShape) (words : List Word) :
    (s.storeTable sh words).precIn = s.precIn := rfl
@[simp] theorem State.storeTable_clen0 (sh : LutShape) (words : List Word) :
    (s.storeTable sh words).clen0 = s.clen0 := rfl
@[simp] theorem State.storeTable_clen1 (sh : LutShape) (words : List Word) :
    (s.storeTable sh words).clen1 = s.clen1 := rfl
@[simp] theorem State.storeTable_hlen (sh : LutShape) (words : List Word) :
    (s.storeTable sh words).hlen = BitVec.ofNat 32 (lutWords s.params.tables sh) := rfl
@[simp] theorem State.storeTable_hbase (sh : LutShape) (words : List Word) :
    (s.storeTable sh words).hbase = BitVec.ofNat 32 (lutBase s.params.tables sh) := rfl
@[simp] theorem State.storeTable_sat (sh : LutShape) (words : List Word) :
    (s.storeTable sh words).sat = s.sat := rfl
@[simp] theorem State.storeTable_cmpres (sh : LutShape) (words : List Word) :
    (s.storeTable sh words).cmpres = s.cmpres := rfl
@[simp] theorem State.storeTable_cmpidx (sh : LutShape) (words : List Word) :
    (s.storeTable sh words).cmpidx = s.cmpidx := rfl
@[simp] theorem State.storeTable_topo (sh : LutShape) (words : List Word) :
    (s.storeTable sh words).topo = s.topo := rfl
@[simp] theorem State.storeTable_gammaMode (sh : LutShape) (words : List Word) :
    (s.storeTable sh words).gammaMode = s.gammaMode := rfl
@[simp] theorem State.storeTable_cscMode (sh : LutShape) (words : List Word) :
    (s.storeTable sh words).cscMode = s.cscMode := rfl
@[simp] theorem State.storeTable_cgmMode (sh : LutShape) (words : List Word) :
    (s.storeTable sh words).cgmMode = s.cgmMode := rfl
@[simp] theorem State.storeTable_prec (sh : LutShape) (words : List Word) :
    (s.storeTable sh words).prec = s.prec := rfl
@[simp] theorem State.storeTable_lutfmt (sh : LutShape) (words : List Word) :
    (s.storeTable sh words).lutfmt = s.lutfmt := rfl
@[simp] theorem State.storeTable_m (sh : LutShape) (words : List Word) :
    (s.storeTable sh words).m = s.m := rfl
@[simp] theorem State.storeTable_ec (sh : LutShape) (words : List Word) :
    (s.storeTable sh words).ec = s.ec := rfl
@[simp] theorem State.storeTable_pre (sh : LutShape) (words : List Word) :
    (s.storeTable sh words).pre = s.pre := rfl
@[simp] theorem State.storeTable_post (sh : LutShape) (words : List Word) :
    (s.storeTable sh words).post = s.post := rfl
@[simp] theorem State.storeTable_clut0 (sh : LutShape) (words : List Word) :
    (s.storeTable sh words).clut0 = s.clut0 := rfl
@[simp] theorem State.storeTable_clut1 (sh : LutShape) (words : List Word) :
    (s.storeTable sh words).clut1 = s.clut1 := rfl
@[simp] theorem State.storeTable_hlut (sh : LutShape) (words : List Word) :
    (s.storeTable sh words).hlut = Memory.writePrefix s.hlut words := rfl
@[simp] theorem State.storeTable_params (sh : LutShape) (words : List Word) :
    (s.storeTable sh words).params = s.params := rfl
@[simp] theorem State.storeTable_powerUp (sh : LutShape) (words : List Word) :
    (s.storeTable sh words).powerUp = s.powerUp := rfl
@[simp] theorem State.storeTable_pending (sh : LutShape) (words : List Word) :
    (s.storeTable sh words).pending = s.pending := rfl
@[simp] theorem State.storeTable_readLog (sh : LutShape) (words : List Word) :
    (s.storeTable sh words).readLog = s.readLog := rfl

/-! ### `State.storeEntries` -/

@[simp] theorem State.storeEntries_cmd (sh : LutShape) (entries : List Entry) :
    (s.storeEntries sh entries).cmd = s.cmd := rfl
@[simp] theorem State.storeEntries_status (sh : LutShape) (entries : List Entry) :
    (s.storeEntries sh entries).status = statusFinish codeOk s.status := rfl
@[simp] theorem State.storeEntries_errExpected (sh : LutShape) (entries : List Entry) :
    (s.storeEntries sh entries).errExpected = s.errExpected := rfl
@[simp] theorem State.storeEntries_errActual (sh : LutShape) (entries : List Entry) :
    (s.storeEntries sh entries).errActual = s.errActual := rfl
@[simp] theorem State.storeEntries_gen (sh : LutShape) (entries : List Entry) :
    (s.storeEntries sh entries).gen = s.gen := rfl
@[simp] theorem State.storeEntries_cfg (sh : LutShape) (entries : List Entry) :
    (s.storeEntries sh entries).cfg = s.cfg := rfl
@[simp] theorem State.storeEntries_deglen (sh : LutShape) (entries : List Entry) :
    (s.storeEntries sh entries).deglen = s.deglen := rfl
@[simp] theorem State.storeEntries_gamlen (sh : LutShape) (entries : List Entry) :
    (s.storeEntries sh entries).gamlen = s.gamlen := rfl
@[simp] theorem State.storeEntries_precIn (sh : LutShape) (entries : List Entry) :
    (s.storeEntries sh entries).precIn = s.precIn := rfl
@[simp] theorem State.storeEntries_clen0 (sh : LutShape) (entries : List Entry) :
    (s.storeEntries sh entries).clen0 = BitVec.ofNat 32 (lutHwEntries s.params.tables sh) := rfl
@[simp] theorem State.storeEntries_clen1 (sh : LutShape) (entries : List Entry) :
    (s.storeEntries sh entries).clen1 = s.clen1 := rfl
@[simp] theorem State.storeEntries_hlen (sh : LutShape) (entries : List Entry) :
    (s.storeEntries sh entries).hlen = s.hlen := rfl
@[simp] theorem State.storeEntries_hbase (sh : LutShape) (entries : List Entry) :
    (s.storeEntries sh entries).hbase = s.hbase := rfl
@[simp] theorem State.storeEntries_sat (sh : LutShape) (entries : List Entry) :
    (s.storeEntries sh entries).sat = s.sat := rfl
@[simp] theorem State.storeEntries_cmpres (sh : LutShape) (entries : List Entry) :
    (s.storeEntries sh entries).cmpres = s.cmpres := rfl
@[simp] theorem State.storeEntries_cmpidx (sh : LutShape) (entries : List Entry) :
    (s.storeEntries sh entries).cmpidx = s.cmpidx := rfl
@[simp] theorem State.storeEntries_topo (sh : LutShape) (entries : List Entry) :
    (s.storeEntries sh entries).topo = s.topo := rfl
@[simp] theorem State.storeEntries_gammaMode (sh : LutShape) (entries : List Entry) :
    (s.storeEntries sh entries).gammaMode = s.gammaMode := rfl
@[simp] theorem State.storeEntries_cscMode (sh : LutShape) (entries : List Entry) :
    (s.storeEntries sh entries).cscMode = s.cscMode := rfl
@[simp] theorem State.storeEntries_cgmMode (sh : LutShape) (entries : List Entry) :
    (s.storeEntries sh entries).cgmMode = s.cgmMode := rfl
@[simp] theorem State.storeEntries_prec (sh : LutShape) (entries : List Entry) :
    (s.storeEntries sh entries).prec = s.prec := rfl
@[simp] theorem State.storeEntries_lutfmt (sh : LutShape) (entries : List Entry) :
    (s.storeEntries sh entries).lutfmt = s.lutfmt := rfl
@[simp] theorem State.storeEntries_m (sh : LutShape) (entries : List Entry) :
    (s.storeEntries sh entries).m = s.m := rfl
@[simp] theorem State.storeEntries_ec (sh : LutShape) (entries : List Entry) :
    (s.storeEntries sh entries).ec = s.ec := rfl
@[simp] theorem State.storeEntries_pre (sh : LutShape) (entries : List Entry) :
    (s.storeEntries sh entries).pre = s.pre := rfl
@[simp] theorem State.storeEntries_post (sh : LutShape) (entries : List Entry) :
    (s.storeEntries sh entries).post = s.post := rfl
@[simp] theorem State.storeEntries_clut0 (sh : LutShape) (entries : List Entry) :
    (s.storeEntries sh entries).clut0 = Memory.writePrefix s.clut0 entries := rfl
@[simp] theorem State.storeEntries_clut1 (sh : LutShape) (entries : List Entry) :
    (s.storeEntries sh entries).clut1 = s.clut1 := rfl
@[simp] theorem State.storeEntries_hlut (sh : LutShape) (entries : List Entry) :
    (s.storeEntries sh entries).hlut = s.hlut := rfl
@[simp] theorem State.storeEntries_params (sh : LutShape) (entries : List Entry) :
    (s.storeEntries sh entries).params = s.params := rfl
@[simp] theorem State.storeEntries_powerUp (sh : LutShape) (entries : List Entry) :
    (s.storeEntries sh entries).powerUp = s.powerUp := rfl
@[simp] theorem State.storeEntries_pending (sh : LutShape) (entries : List Entry) :
    (s.storeEntries sh entries).pending = s.pending := rfl
@[simp] theorem State.storeEntries_readLog (sh : LutShape) (entries : List Entry) :
    (s.storeEntries sh entries).readLog = s.readLog := rfl

/-! ### `State.storeTopology` -/

@[simp] theorem State.storeTopology_cmd (t : Topology) : (s.storeTopology t).cmd = s.cmd := rfl
@[simp] theorem State.storeTopology_status (t : Topology) :
    (s.storeTopology t).status = statusFinish codeOk s.status := rfl
@[simp] theorem State.storeTopology_errExpected (t : Topology) :
    (s.storeTopology t).errExpected = s.errExpected := rfl
@[simp] theorem State.storeTopology_errActual (t : Topology) :
    (s.storeTopology t).errActual = s.errActual := rfl
@[simp] theorem State.storeTopology_gen (t : Topology) : (s.storeTopology t).gen = s.gen := rfl
@[simp] theorem State.storeTopology_cfg (t : Topology) : (s.storeTopology t).cfg = s.cfg := rfl
@[simp] theorem State.storeTopology_deglen (t : Topology) : (s.storeTopology t).deglen = s.deglen := rfl
@[simp] theorem State.storeTopology_gamlen (t : Topology) : (s.storeTopology t).gamlen = s.gamlen := rfl
@[simp] theorem State.storeTopology_precIn (t : Topology) : (s.storeTopology t).precIn = s.precIn := rfl
@[simp] theorem State.storeTopology_clen0 (t : Topology) : (s.storeTopology t).clen0 = s.clen0 := rfl
@[simp] theorem State.storeTopology_clen1 (t : Topology) : (s.storeTopology t).clen1 = s.clen1 := rfl
@[simp] theorem State.storeTopology_hlen (t : Topology) : (s.storeTopology t).hlen = s.hlen := rfl
@[simp] theorem State.storeTopology_hbase (t : Topology) : (s.storeTopology t).hbase = s.hbase := rfl
@[simp] theorem State.storeTopology_sat (t : Topology) : (s.storeTopology t).sat = s.sat := rfl
@[simp] theorem State.storeTopology_cmpres (t : Topology) : (s.storeTopology t).cmpres = s.cmpres := rfl
@[simp] theorem State.storeTopology_cmpidx (t : Topology) : (s.storeTopology t).cmpidx = s.cmpidx := rfl
@[simp] theorem State.storeTopology_topo (t : Topology) : (s.storeTopology t).topo = t.word := rfl
@[simp] theorem State.storeTopology_gammaMode (t : Topology) :
    (s.storeTopology t).gammaMode = t.gammaMode := rfl
@[simp] theorem State.storeTopology_cscMode (t : Topology) : (s.storeTopology t).cscMode = t.cscMode := rfl
@[simp] theorem State.storeTopology_cgmMode (t : Topology) : (s.storeTopology t).cgmMode = t.cgmMode := rfl
@[simp] theorem State.storeTopology_prec (t : Topology) : (s.storeTopology t).prec = t.precision := rfl
@[simp] theorem State.storeTopology_lutfmt (t : Topology) : (s.storeTopology t).lutfmt = t.lutfmt := rfl
@[simp] theorem State.storeTopology_m (t : Topology) : (s.storeTopology t).m = s.m := rfl
@[simp] theorem State.storeTopology_ec (t : Topology) : (s.storeTopology t).ec = s.ec := rfl
@[simp] theorem State.storeTopology_pre (t : Topology) : (s.storeTopology t).pre = s.pre := rfl
@[simp] theorem State.storeTopology_post (t : Topology) : (s.storeTopology t).post = s.post := rfl
@[simp] theorem State.storeTopology_clut0 (t : Topology) : (s.storeTopology t).clut0 = s.clut0 := rfl
@[simp] theorem State.storeTopology_clut1 (t : Topology) : (s.storeTopology t).clut1 = s.clut1 := rfl
@[simp] theorem State.storeTopology_hlut (t : Topology) : (s.storeTopology t).hlut = s.hlut := rfl
@[simp] theorem State.storeTopology_params (t : Topology) : (s.storeTopology t).params = s.params := rfl
@[simp] theorem State.storeTopology_powerUp (t : Topology) : (s.storeTopology t).powerUp = s.powerUp := rfl
@[simp] theorem State.storeTopology_pending (t : Topology) : (s.storeTopology t).pending = s.pending := rfl
@[simp] theorem State.storeTopology_readLog (t : Topology) : (s.storeTopology t).readLog = s.readLog := rfl

/-! ### `State.storeCompare` -/

@[simp] theorem State.storeCompare_cmd (equal : BitVec 1) (idx : Word) :
    (s.storeCompare equal idx).cmd = s.cmd := rfl
@[simp] theorem State.storeCompare_status (equal : BitVec 1) (idx : Word) :
    (s.storeCompare equal idx).status = statusFinish codeOk s.status := rfl
@[simp] theorem State.storeCompare_errExpected (equal : BitVec 1) (idx : Word) :
    (s.storeCompare equal idx).errExpected = s.errExpected := rfl
@[simp] theorem State.storeCompare_errActual (equal : BitVec 1) (idx : Word) :
    (s.storeCompare equal idx).errActual = s.errActual := rfl
@[simp] theorem State.storeCompare_gen (equal : BitVec 1) (idx : Word) :
    (s.storeCompare equal idx).gen = s.gen := rfl
@[simp] theorem State.storeCompare_cfg (equal : BitVec 1) (idx : Word) :
    (s.storeCompare equal idx).cfg = s.cfg := rfl
@[simp] theorem State.storeCompare_deglen (equal : BitVec 1) (idx : Word) :
    (s.storeCompare equal idx).deglen = s.deglen := rfl
@[simp] theorem State.storeCompare_gamlen (equal : BitVec 1) (idx : Word) :
    (s.storeCompare equal idx).gamlen = s.gamlen := rfl
@[simp] theorem State.storeCompare_precIn (equal : BitVec 1) (idx : Word) :
    (s.storeCompare equal idx).precIn = s.precIn := rfl
@[simp] theorem State.storeCompare_clen0 (equal : BitVec 1) (idx : Word) :
    (s.storeCompare equal idx).clen0 = s.clen0 := rfl
@[simp] theorem State.storeCompare_clen1 (equal : BitVec 1) (idx : Word) :
    (s.storeCompare equal idx).clen1 = s.clen1 := rfl
@[simp] theorem State.storeCompare_hlen (equal : BitVec 1) (idx : Word) :
    (s.storeCompare equal idx).hlen = s.hlen := rfl
@[simp] theorem State.storeCompare_hbase (equal : BitVec 1) (idx : Word) :
    (s.storeCompare equal idx).hbase = s.hbase := rfl
@[simp] theorem State.storeCompare_sat (equal : BitVec 1) (idx : Word) :
    (s.storeCompare equal idx).sat = s.sat := rfl
@[simp] theorem State.storeCompare_cmpres (equal : BitVec 1) (idx : Word) :
    (s.storeCompare equal idx).cmpres = equal := rfl
@[simp] theorem State.storeCompare_cmpidx (equal : BitVec 1) (idx : Word) :
    (s.storeCompare equal idx).cmpidx = idx := rfl
@[simp] theorem State.storeCompare_topo (equal : BitVec 1) (idx : Word) :
    (s.storeCompare equal idx).topo = s.topo := rfl
@[simp] theorem State.storeCompare_gammaMode (equal : BitVec 1) (idx : Word) :
    (s.storeCompare equal idx).gammaMode = s.gammaMode := rfl
@[simp] theorem State.storeCompare_cscMode (equal : BitVec 1) (idx : Word) :
    (s.storeCompare equal idx).cscMode = s.cscMode := rfl
@[simp] theorem State.storeCompare_cgmMode (equal : BitVec 1) (idx : Word) :
    (s.storeCompare equal idx).cgmMode = s.cgmMode := rfl
@[simp] theorem State.storeCompare_prec (equal : BitVec 1) (idx : Word) :
    (s.storeCompare equal idx).prec = s.prec := rfl
@[simp] theorem State.storeCompare_lutfmt (equal : BitVec 1) (idx : Word) :
    (s.storeCompare equal idx).lutfmt = s.lutfmt := rfl
@[simp] theorem State.storeCompare_m (equal : BitVec 1) (idx : Word) :
    (s.storeCompare equal idx).m = s.m := rfl
@[simp] theorem State.storeCompare_ec (equal : BitVec 1) (idx : Word) :
    (s.storeCompare equal idx).ec = s.ec := rfl
@[simp] theorem State.storeCompare_pre (equal : BitVec 1) (idx : Word) :
    (s.storeCompare equal idx).pre = s.pre := rfl
@[simp] theorem State.storeCompare_post (equal : BitVec 1) (idx : Word) :
    (s.storeCompare equal idx).post = s.post := rfl
@[simp] theorem State.storeCompare_clut0 (equal : BitVec 1) (idx : Word) :
    (s.storeCompare equal idx).clut0 = s.clut0 := rfl
@[simp] theorem State.storeCompare_clut1 (equal : BitVec 1) (idx : Word) :
    (s.storeCompare equal idx).clut1 = s.clut1 := rfl
@[simp] theorem State.storeCompare_hlut (equal : BitVec 1) (idx : Word) :
    (s.storeCompare equal idx).hlut = s.hlut := rfl
@[simp] theorem State.storeCompare_params (equal : BitVec 1) (idx : Word) :
    (s.storeCompare equal idx).params = s.params := rfl
@[simp] theorem State.storeCompare_powerUp (equal : BitVec 1) (idx : Word) :
    (s.storeCompare equal idx).powerUp = s.powerUp := rfl
@[simp] theorem State.storeCompare_pending (equal : BitVec 1) (idx : Word) :
    (s.storeCompare equal idx).pending = s.pending := rfl
@[simp] theorem State.storeCompare_readLog (equal : BitVec 1) (idx : Word) :
    (s.storeCompare equal idx).readLog = s.readLog := rfl

/-! ### `State.logRead` -/

@[simp] theorem State.logRead_cmd (v : HostValue) : (s.logRead v).cmd = s.cmd := rfl
@[simp] theorem State.logRead_status (v : HostValue) : (s.logRead v).status = s.status := rfl
@[simp] theorem State.logRead_errExpected (v : HostValue) : (s.logRead v).errExpected = s.errExpected := rfl
@[simp] theorem State.logRead_errActual (v : HostValue) : (s.logRead v).errActual = s.errActual := rfl
@[simp] theorem State.logRead_gen (v : HostValue) : (s.logRead v).gen = s.gen := rfl
@[simp] theorem State.logRead_cfg (v : HostValue) : (s.logRead v).cfg = s.cfg := rfl
@[simp] theorem State.logRead_deglen (v : HostValue) : (s.logRead v).deglen = s.deglen := rfl
@[simp] theorem State.logRead_gamlen (v : HostValue) : (s.logRead v).gamlen = s.gamlen := rfl
@[simp] theorem State.logRead_precIn (v : HostValue) : (s.logRead v).precIn = s.precIn := rfl
@[simp] theorem State.logRead_clen0 (v : HostValue) : (s.logRead v).clen0 = s.clen0 := rfl
@[simp] theorem State.logRead_clen1 (v : HostValue) : (s.logRead v).clen1 = s.clen1 := rfl
@[simp] theorem State.logRead_hlen (v : HostValue) : (s.logRead v).hlen = s.hlen := rfl
@[simp] theorem State.logRead_hbase (v : HostValue) : (s.logRead v).hbase = s.hbase := rfl
@[simp] theorem State.logRead_sat (v : HostValue) : (s.logRead v).sat = s.sat := rfl
@[simp] theorem State.logRead_cmpres (v : HostValue) : (s.logRead v).cmpres = s.cmpres := rfl
@[simp] theorem State.logRead_cmpidx (v : HostValue) : (s.logRead v).cmpidx = s.cmpidx := rfl
@[simp] theorem State.logRead_topo (v : HostValue) : (s.logRead v).topo = s.topo := rfl
@[simp] theorem State.logRead_gammaMode (v : HostValue) : (s.logRead v).gammaMode = s.gammaMode := rfl
@[simp] theorem State.logRead_cscMode (v : HostValue) : (s.logRead v).cscMode = s.cscMode := rfl
@[simp] theorem State.logRead_cgmMode (v : HostValue) : (s.logRead v).cgmMode = s.cgmMode := rfl
@[simp] theorem State.logRead_prec (v : HostValue) : (s.logRead v).prec = s.prec := rfl
@[simp] theorem State.logRead_lutfmt (v : HostValue) : (s.logRead v).lutfmt = s.lutfmt := rfl
@[simp] theorem State.logRead_m (v : HostValue) : (s.logRead v).m = s.m := rfl
@[simp] theorem State.logRead_ec (v : HostValue) : (s.logRead v).ec = s.ec := rfl
@[simp] theorem State.logRead_pre (v : HostValue) : (s.logRead v).pre = s.pre := rfl
@[simp] theorem State.logRead_post (v : HostValue) : (s.logRead v).post = s.post := rfl
@[simp] theorem State.logRead_clut0 (v : HostValue) : (s.logRead v).clut0 = s.clut0 := rfl
@[simp] theorem State.logRead_clut1 (v : HostValue) : (s.logRead v).clut1 = s.clut1 := rfl
@[simp] theorem State.logRead_hlut (v : HostValue) : (s.logRead v).hlut = s.hlut := rfl
@[simp] theorem State.logRead_params (v : HostValue) : (s.logRead v).params = s.params := rfl
@[simp] theorem State.logRead_powerUp (v : HostValue) : (s.logRead v).powerUp = s.powerUp := rfl
@[simp] theorem State.logRead_pending (v : HostValue) : (s.logRead v).pending = s.pending := rfl
@[simp] theorem State.logRead_readLog (v : HostValue) : (s.logRead v).readLog = v :: s.readLog := rfl

end Sys2Proof.Machine
end

