-- ==== Sys2Proof/Laws/Codec.lean ====
section
/-! SUPPORT. The laws of the coefficient formats: bounds of magnitudes and mantissas, the fields of an encoded word,
and what CTMENC and CTMDEC can do. -/

namespace Sys2Proof.Machine

/-- A magnitude is at most 2^63 (40_codec.md R93). -/
theorem mag_le (rep : CtmRepr) (c : Coef) : mag rep c ≤ 2 ^ 63 := by
  have h := c.isLt
  cases rep with
  | twos =>
    simp only [mag]
    split
    · rename_i hm
      have := (BitVec.msb_eq_true_iff_two_mul_ge (x := c)).mp hm
      omega
    · rename_i hm
      have := (BitVec.msb_eq_false_iff_two_mul_lt (x := c)).mp (by simpa using hm)
      omega
  | signmag =>
    simp only [mag]
    omega

/-- A band's fraction bits are 7 to 12. -/
theorem Band.fbits_range (b : Band) : 7 ≤ b.fbits ∧ b.fbits ≤ 12 := by
  cases b <;> decide

/-- The exponent code of a band names it. -/
@[simp] theorem bandOfCode_code (b : Band) : bandOfCode b.code = some b := by
  cases b <;> rfl

/-- A code that names a band is the band's. -/
theorem code_of_bandOfCode {c : BitVec 3} {b : Band} (h : bandOfCode c = some b) : c = b.code := by
  revert h
  simp only [bandOfCode]
  repeat' split
  all_goals first
    | (intro h; cases h; simp only [Band.code]; assumption)
    | (intro h; cases h)

/-- The rounded mantissa of a clamped magnitude is at most 512 (40_codec.md R99). -/
theorem fpRounded_le {a : Nat} (h : a ≤ fpBound) : fpRounded a ≤ 512 := by
  simp only [fpBound, ONE] at h
  simp only [fpRounded, bandOf]
  repeat' split
  all_goals
    simp only [Band.fbits, Nat.shiftRight_eq_div_pow]
    norm_num
    omega

/-- The mantissa is at most 511 (40_codec.md R100). -/
theorem fpMantissa_le (a : Nat) : fpMantissa a ≤ 511 := Nat.min_le_right _ _

/-- The number an FP_SM word is: its three fields at their places (40_codec.md R98). -/
theorem encFp_toNat (neg : Bool) (aIn : Nat) :
    (encFp neg aIn).toNat =
      neg.toNat * 2 ^ 15 + (bandOf (min aIn fpBound)).code.toNat * 2 ^ 12 +
        fpMantissa (min aIn fpBound) * 2 ^ 3 := by
  have h1 := neg.toNat_le
  have h2 := (bandOf (min aIn fpBound)).code.isLt
  have h3 := fpMantissa_le (min aIn fpBound)
  simp only [encFp, BitVec.toNat_ofNat]
  omega

/-- The number a FIX_S312 word is: its sign and its integer and fraction bits (40_codec.md R105). -/
theorem encS312_toNat (neg : Bool) (aIn : Nat) :
    (encS312 neg aIn).toNat = neg.toNat * 2 ^ 15 + min (aIn + s312Half) s312Bound >>> 20 := by
  have h1 := neg.toNat_le
  have h2 : min (aIn + s312Half) s312Bound ≤ s312Bound := Nat.min_le_right _ _
  simp only [s312Bound, ONE] at h2 ⊢
  simp only [encS312, BitVec.toNat_ofNat, s312Bound, ONE, Nat.shiftRight_eq_div_pow]
  omega

/-- Everything CTMENC can do: it faults on a tag that cannot represent a matrix, or it stores nine words. -/
theorem execCtmenc_cases {s t : State} (h : execCtmenc s = .next t) :
    t = s.raise .unsupportedCombination ∨
    ∃ p words magSat mantSat, s.profile? = some p ∧ p.cfmt ≠ .none ∧
      t = s.storeMatrix p words magSat mantSat := by
  simp only [execCtmenc] at h
  split at h
  · cases h; exact .inl rfl
  · rename_i p hp
    split at h
    · cases h; exact .inl rfl
    · rename_i hc
      cases h; exact .inr ⟨p, _, _, _, hp, by simp [hc], rfl⟩
    · rename_i hc
      cases h; exact .inr ⟨p, _, _, _, hp, by simp [hc], rfl⟩

/-- Everything CTMDEC can do: it reports UNSUPPORTED, faults on a reserved encoding, or writes the matrix. -/
theorem execCtmdec_cases {s t : State} (h : execCtmdec s = .next t) :
    t = s.finish codeUnsupported ∨ t = s.raise .reservedEncoding ∨
    ∃ coefs, t = { s with m := coefs }.finish codeOk := by
  simp only [execCtmdec] at h
  split at h
  · cases h; exact .inl rfl
  · split at h
    · split at h
      · cases h; exact .inl rfl
      · split at h
        · cases h; exact .inr (.inl rfl)
        · cases h; exact .inr (.inr ⟨_, rfl⟩)
      · cases h; exact .inr (.inr ⟨_, rfl⟩)
    · cases h; exact .inl rfl

end Sys2Proof.Machine
end

