-- ==== Sys2Proof/Laws/Memory.lean ====
section
/-! SUPPORT. The laws of the canonical buffers: read after write, what a prefix write leaves, and that every
operation keeps the canonical form and the bound on the indices. -/

namespace Sys2Proof.Machine.Memory

variable {α : Type}

/-! ### Single writes -/

theorem lookup_write_same (mem : Memory α) (i : Nat) (v : α) : (write mem i v).lookup i = some v := by
  induction mem with
  | nil => simp [write, lookup]
  | cons x rest ih =>
    obtain ⟨j, u⟩ := x
    simp only [write]
    split
    · simp [lookup]
    · split
      · simp [lookup]
      · simp [lookup, *]

theorem lookup_write_other (mem : Memory α) {i k : Nat} (v : α) (h : k ≠ i) :
    (write mem i v).lookup k = mem.lookup k := by
  induction mem with
  | nil => simp [write, lookup, h]
  | cons x rest ih =>
    obtain ⟨j, u⟩ := x
    simp only [write]
    split
    · simp [lookup, h]
    · split
      · rename_i hij
        subst hij
        simp [lookup, h]
      · simp [lookup, ih]

theorem wf_iff (mem : Memory α) : wf mem = true ↔ mem.Pairwise fun x y => x.1 < y.1 := by
  simp [wf]

@[simp] theorem wf_nil : wf ([] : Memory α) = true := by simp [wf]

theorem mem_write {mem : Memory α} {i : Nat} {v : α} {x : Nat × α} (h : x ∈ write mem i v) :
    x = (i, v) ∨ x ∈ mem := by
  induction mem with
  | nil => simpa [write] using h
  | cons y rest ih =>
    obtain ⟨j, u⟩ := y
    simp only [write] at h
    split at h
    · simpa using h
    · split at h
      · rcases List.mem_cons.mp h with h | h
        · exact .inl h
        · exact .inr (List.mem_cons_of_mem _ h)
      · rcases List.mem_cons.mp h with h | h
        · exact .inr (h ▸ List.mem_cons_self)
        · rcases ih h with h | h
          · exact .inl h
          · exact .inr (List.mem_cons_of_mem _ h)

theorem wf_write (mem : Memory α) (i : Nat) (v : α) (h : wf mem = true) :
    wf (write mem i v) = true := by
  rw [wf_iff] at *
  induction mem with
  | nil => simp [write]
  | cons x rest ih =>
    obtain ⟨j, u⟩ := x
    obtain ⟨hj, hrest⟩ := List.pairwise_cons.mp h
    simp only [write]
    split
    · rename_i hij
      refine List.pairwise_cons.mpr ⟨fun y hy => ?_, h⟩
      rcases List.mem_cons.mp hy with rfl | hy
      · exact hij
      · exact Nat.lt_trans hij (hj y hy)
    · split
      · rename_i hij
        subst hij
        exact List.pairwise_cons.mpr ⟨hj, hrest⟩
      · refine List.pairwise_cons.mpr ⟨fun y hy => ?_, ih hrest⟩
        rcases mem_write hy with rfl | hy
        · show j < i
          omega
        · exact hj y hy

/-- An index bound kept by a write below it. -/
theorem below_write (mem : Memory α) {i cap : Nat} (v : α) (hi : i < cap)
    (h : (mem.all fun x => x.1 < cap) = true) : ((write mem i v).all fun x => x.1 < cap) = true := by
  simp only [List.all_eq_true, decide_eq_true_eq] at *
  intro x hx
  rcases mem_write hx with rfl | hx
  · exact hi
  · exact h x hx

/-! ### Prefix writes -/

theorem lookup_listed (start : Nat) (vals : List α) (i : Nat) :
    (listed start vals).lookup i = if start ≤ i then vals[i - start]? else none := by
  induction vals generalizing start with
  | nil => simp [listed, lookup]
  | cons v vs ih =>
    simp only [listed, lookup, ih]
    by_cases h : i = start
    · subst h; simp
    · by_cases h2 : start + 1 ≤ i
      · have : i - start = (i - (start + 1)) + 1 := by omega
        simp [h, h2, this, show start ≤ i by omega]
      · simp [h, h2, show ¬ start ≤ i by omega]

theorem mem_listed {start : Nat} {vals : List α} {x : Nat × α} (h : x ∈ listed start vals) :
    start ≤ x.1 ∧ x.1 < start + vals.length := by
  induction vals generalizing start with
  | nil => simp [listed] at h
  | cons v vs ih =>
    simp only [listed, List.mem_cons] at h
    rcases h with rfl | h
    · simp
    · have := ih h
      simp only [List.length_cons]
      omega

theorem lookup_append (a b : Memory α) (i : Nat) :
    lookup (a ++ b) i = (lookup a i).or (lookup b i) := by
  induction a with
  | nil => simp [lookup]
  | cons x rest ih =>
    obtain ⟨j, u⟩ := x
    by_cases h : i = j <;> simp [lookup, h, ih]

theorem lookup_filter_ge (mem : Memory α) (n i : Nat) (h : n ≤ i) :
    lookup (mem.filter fun x => n ≤ x.1) i = mem.lookup i := by
  induction mem with
  | nil => simp [lookup]
  | cons x rest ih =>
    obtain ⟨j, u⟩ := x
    by_cases hj : n ≤ j
    · simp [hj, lookup, ih]
    · simp [hj, lookup, ih, show i ≠ j by omega]

/-- What a prefix write leaves: the new elements below their number, the old ones from there on. -/
theorem lookup_writePrefix (mem : Memory α) (vals : List α) (i : Nat) :
    (writePrefix mem vals).lookup i = if i < vals.length then vals[i]? else mem.lookup i := by
  rw [writePrefix, lookup_append, lookup_listed]
  by_cases h : i < vals.length
  · simp [h]
  · simp only [Nat.zero_le, if_true, Nat.sub_zero, h, if_false]
    rw [List.getElem?_eq_none (by omega), Option.none_or, lookup_filter_ge _ _ _ (by omega)]

theorem lookup_writePrefix_lt (mem : Memory α) (vals : List α) {i : Nat} (h : i < vals.length) :
    (writePrefix mem vals).lookup i = some vals[i] := by
  rw [lookup_writePrefix, if_pos h, List.getElem?_eq_getElem h]

theorem lookup_writePrefix_ge (mem : Memory α) (vals : List α) {i : Nat} (h : vals.length ≤ i) :
    (writePrefix mem vals).lookup i = mem.lookup i := by
  rw [lookup_writePrefix, if_neg (by omega)]

theorem pairwise_listed (start : Nat) (vals : List α) :
    (listed start vals).Pairwise fun x y => x.1 < y.1 := by
  induction vals generalizing start with
  | nil => simp [listed]
  | cons v vs ih =>
    refine List.pairwise_cons.mpr ⟨fun y hy => ?_, ih _⟩
    have := mem_listed hy
    show start < y.1
    omega

theorem wf_writePrefix (mem : Memory α) (vals : List α) (h : wf mem = true) :
    wf (writePrefix mem vals) = true := by
  rw [wf_iff] at *
  refine List.pairwise_append.mpr ⟨pairwise_listed 0 vals, h.filter _, fun x hx y hy => ?_⟩
  have hx := mem_listed hx
  have hy := (List.mem_filter.mp hy).2
  simp only [decide_eq_true_eq] at hy
  omega

/-- An index bound kept by a prefix write of no more elements than it. -/
theorem below_writePrefix (mem : Memory α) {cap : Nat} (vals : List α) (hv : vals.length ≤ cap)
    (h : (mem.all fun x => x.1 < cap) = true) :
    ((writePrefix mem vals).all fun x => x.1 < cap) = true := by
  simp only [List.all_eq_true, decide_eq_true_eq] at *
  intro x hx
  rcases List.mem_append.mp hx with hx | hx
  · have := mem_listed hx
    omega
  · exact h x (List.mem_filter.mp hx).1

end Sys2Proof.Machine.Memory
end

