-- ==== Sys2Proof/Laws/Ops.lean ====
section
/-! SUPPORT. The laws of buffer and register accesses. -/

namespace Sys2Proof.Machine

/-! ### Buffers -/

@[simp] theorem State.clut_zero (s : State) : s.clut .clut0 = s.clut0 := rfl
@[simp] theorem State.clut_one (s : State) : s.clut .clut1 = s.clut1 := rfl

@[simp] theorem State.clut_setClut_same (s : State) (b : ClutId) (mem : Memory Entry) :
    (s.setClut b mem).clut b = mem := by cases b <;> rfl

theorem State.clut_setClut_other (s : State) {b c : ClutId} (mem : Memory Entry) (h : c ≠ b) :
    (s.setClut b mem).clut c = s.clut c := by
  cases b <;> cases c <;> first | rfl | exact absurd rfl h

@[simp] theorem State.params_setClut (s : State) (b : ClutId) (mem : Memory Entry) :
    (s.setClut b mem).params = s.params := by cases b <;> rfl

@[simp] theorem State.powerUp_setClut (s : State) (b : ClutId) (mem : Memory Entry) :
    (s.setClut b mem).powerUp = s.powerUp := by cases b <;> rfl

/-- A read depends on the buffer, the launch parameters and the power-up only. -/
theorem State.readEntry_congr {s t : State} (b : ClutId) (hc : t.clut b = s.clut b)
    (hp : t.params = s.params) (hu : t.powerUp = s.powerUp) (i : Nat) :
    t.readEntry b i = s.readEntry b i := by
  simp [State.readEntry, hc, hp, hu]

/-- A read of `HLUT` depends on the buffer, the launch parameters and the power-up only. -/
theorem State.readHlutWord_congr {s t : State} (hc : t.hlut = s.hlut) (hp : t.params = s.params)
    (hu : t.powerUp = s.powerUp) (i : Nat) : t.readHlutWord i = s.readHlutWord i := by
  simp [State.readHlutWord, hc, hp, hu]

/-- After a prefix write of `CLUT0` a read inside the prefix gives the element written there. -/
theorem State.readEntry_prefix {s t : State} {vals : List Entry} {i : Nat}
    (hc : t.clut0 = Memory.writePrefix s.clut0 vals) (hi : i < vals.length) (hcap : i < t.params.clutCap) :
    t.readEntry .clut0 i = vals[i] := by
  simp [State.readEntry, hc, hcap, Memory.lookup_writePrefix_lt _ _ hi]

/-- After a prefix write of `CLUT0` a read beyond the prefix gives what it gave before. -/
theorem State.readEntry_beyond {s t : State} {vals : List Entry} {i : Nat}
    (hc : t.clut0 = Memory.writePrefix s.clut0 vals) (hp : t.params = s.params)
    (hu : t.powerUp = s.powerUp) (hi : vals.length ≤ i) :
    t.readEntry .clut0 i = s.readEntry .clut0 i := by
  simp [State.readEntry, hc, hp, hu, Memory.lookup_writePrefix_ge _ _ hi]

/-- After a prefix write of `HLUT` a read inside the prefix gives the word written there. -/
theorem State.readHlutWord_prefix {s t : State} {vals : List Word} {i : Nat}
    (hc : t.hlut = Memory.writePrefix s.hlut vals) (hi : i < vals.length) (hcap : i < t.params.hlutCap) :
    t.readHlutWord i = vals[i] := by
  simp [State.readHlutWord, hc, hcap, Memory.lookup_writePrefix_lt _ _ hi]

/-- After a prefix write of `HLUT` a read beyond the prefix gives what it gave before. -/
theorem State.readHlutWord_beyond {s t : State} {vals : List Word} {i : Nat}
    (hc : t.hlut = Memory.writePrefix s.hlut vals) (hp : t.params = s.params)
    (hu : t.powerUp = s.powerUp) (hi : vals.length ≤ i) :
    t.readHlutWord i = s.readHlutWord i := by
  simp [State.readHlutWord, hc, hp, hu, Memory.lookup_writePrefix_ge _ _ hi]

/-! ### Registers -/

/-- No index names a register from 0x53 on. -/
theorem regAt_high {n : Nat} (h : 0x53 ≤ n) : regAt n = none := by
  simp only [regAt]
  split
  · omega
  · repeat' split
    all_goals first | omega | rfl

/-- Index 0 is `CMD`. -/
@[simp] theorem regAt_zero : regAt 0 = some .cmd := rfl

/-- `CMD` is at index 0 only. -/
theorem regAt_eq_cmd {n : Nat} (h : regAt n = some .cmd) : n = 0 := by
  by_cases h2 : n < 0x16
  · interval_cases n <;> first | rfl | simp [regAt, singleRegs] at h
  · simp only [regAt, h2, if_false] at h
    repeat' split at h
    all_goals simp at h

/-- The one bus access that is let through. -/
theorem busIndex_eq_some {address size n : Nat} :
    busIndex address size = some n ↔ size = 4 ∧ address = 4 * n := by
  simp only [busIndex]
  split
  · simp only [Option.some.injEq]
    omega
  · simp only [reduceCtorEq, false_iff]
    omega

end Sys2Proof.Machine
end

