-- ==== Sys2Proof/Laws/Lut.lean ====
section
/-! SUPPORT. The laws of the LUT tables: their lengths, their elements, and what LUTENC and LUTDEC can do. -/

namespace Sys2Proof.Machine

/-! ### Lengths (41_lut_transcoder.md R130) -/

@[simp] theorem packPairs_length (lo hi : Entry → Word) (es : List Entry) :
    (packPairs lo hi es).length = 2 * es.length := by
  induction es with
  | nil => rfl
  | cons e es ih =>
    simp only [packPairs, List.flatMap_cons, List.length_append, List.length_cons, List.length_nil] at *
    omega

/-- An even word of a table of pairs. -/
theorem packPairs_even (lo hi : Entry → Word) (es : List Entry) {i : Nat} (h : i < es.length) :
    (packPairs lo hi es)[2 * i]? = some (lo es[i]) := by
  induction es generalizing i with
  | nil => simp at h
  | cons e es ih =>
    cases i with
    | zero => simp [packPairs]
    | succ i =>
      have := ih (i := i) (by simpa using h)
      simpa [packPairs, Nat.mul_succ] using this

/-- An odd word of a table of pairs. -/
theorem packPairs_odd (lo hi : Entry → Word) (es : List Entry) {i : Nat} (h : i < es.length) :
    (packPairs lo hi es)[2 * i + 1]? = some (hi es[i]) := by
  induction es generalizing i with
  | nil => simp at h
  | cons e es ih =>
    cases i with
    | zero => simp [packPairs]
    | succ i =>
      have := ih (i := i) (by simpa using h)
      simpa [packPairs, Nat.mul_succ] using this

@[simp] theorem ms124Picks_length : ms124Picks.length = 521 := by simp [ms124Picks]

@[simp] theorem maxWords_length (e : Entry) : (maxWords e).length = 3 := rfl

/-- A packed table has the shape's number of words, whatever the source. -/
@[simp] theorem packLut_length (len : TableLens) (sh : LutShape) (n : Nat) (src : Nat → Entry) :
    (packLut len sh n src).length = lutWords len sh := by
  cases sh <;> simp [packLut, lutWords]

/-- An unpacked table has the shape's number of hardware entries. -/
@[simp] theorem unpackLut_length {len : TableLens} {sh : LutShape} (h : 1 ≤ len.i10p6) (word : Nat → Word) :
    (unpackLut len sh word).length = lutHwEntries len sh := by
  cases sh <;> simp [unpackLut, lutHwEntries]
  omega

/-! ### What LUTENC and LUTDEC can do -/

/-- Everything a LUTENC can do: it faults with the two lengths, it stores a table that fits, or it faults because the
table does not fit. -/
theorem encodeLut_cases {sh : LutShape} {ident : Bool} {s t : State} (h : encodeLut sh ident s = .next t) :
    (s.sourceRejected sh ident = true ∧
      t = s.raise (.sizeMismatch (BitVec.ofNat 32 (lutNeed s.params.tables sh)) s.clen0)) ∨
    (s.sourceRejected sh ident = false ∧ s.tableFits sh = true ∧
      t = s.storeTable sh (packLut s.params.tables sh (s.sourceLen sh ident) (s.source sh ident))) ∨
    (s.sourceRejected sh ident = false ∧ s.tableFits sh = false ∧
      t = s.raise (misfit s.params.hlutCap (lutWords s.params.tables sh) (if ident then none else some s.clen0))) := by
  simp only [encodeLut] at h
  split at h
  · rename_i hr
    cases h
    exact .inl ⟨hr, rfl⟩
  · rename_i hr
    split at h
    · rename_i hf
      cases h
      exact .inr (.inl ⟨by simpa using hr, hf, rfl⟩)
    · rename_i hf
      cases h
      exact .inr (.inr ⟨by simpa using hr, by simpa using hf, rfl⟩)

/-- A LUTENC whose checks pass stores the table. -/
theorem encodeLut_ok {sh : LutShape} {ident : Bool} {s : State} (h : s.sourceRejected sh ident = false)
    (hf : s.tableFits sh = true) :
    encodeLut sh ident s =
      .next (s.storeTable sh (packLut s.params.tables sh (s.sourceLen sh ident) (s.source sh ident))) := by
  simp [encodeLut, h, hf]

/-- Everything a LUTDEC can do: it faults with the two lengths, it stores entries that fit, or it faults because the
words or the entries do not fit. -/
theorem decodeLut_cases {sh : LutShape} {s t : State} (h : decodeLut sh s = .next t) :
    (s.hlen.toNat ≠ lutWords s.params.tables sh ∧
      t = s.raise (.sizeMismatch (BitVec.ofNat 32 (lutWords s.params.tables sh)) s.hlen)) ∨
    (s.hlen.toNat = lutWords s.params.tables sh ∧ s.tableFits sh = true ∧ s.entriesFit sh = true ∧
      t = s.storeEntries sh (unpackLut s.params.tables sh s.readHlutWord)) ∨
    (s.hlen.toNat = lutWords s.params.tables sh ∧ (s.tableFits sh && s.entriesFit sh) = false ∧
      ∃ capacity length, t = s.raise (misfit capacity length (some s.hlen))) := by
  simp only [decodeLut] at h
  split at h
  · rename_i hr
    cases h
    exact .inl ⟨hr, rfl⟩
  · rename_i hr
    have hr : s.hlen.toNat = lutWords s.params.tables sh := by omega
    split at h
    · rename_i hf
      cases h
      exact .inr (.inr ⟨hr, by simp_all, _, _, rfl⟩)
    · rename_i hf
      split at h
      · rename_i he
        cases h
        exact .inr (.inr ⟨hr, by simp_all, _, _, rfl⟩)
      · rename_i he
        cases h
        exact .inr (.inl ⟨hr, by simpa using hf, by simpa using he, rfl⟩)

/-- A LUTDEC whose checks pass stores the entries. -/
theorem decodeLut_ok {sh : LutShape} {s : State} (h : s.hlen.toNat = lutWords s.params.tables sh)
    (hf : s.tableFits sh = true) (he : s.entriesFit sh = true) :
    decodeLut sh s = .next (s.storeEntries sh (unpackLut s.params.tables sh s.readHlutWord)) := by
  simp [decodeLut, h, hf, he]

end Sys2Proof.Machine
end

