-- ==== Sys2Proof/Laws/Topology.lean ====
section
/-! SUPPORT. What the Topology Selector and the comparator can do. -/

namespace Sys2Proof.Machine

/-- Everything `select` can answer, in its order of precedence (42_topology.md R184). -/
theorem select_ok {profile : Option Profile} {cfg : BitVec 7} {gamlen : Word} {t : Topology}
    (h : select profile cfg gamlen = .ok t) :
    ∃ p, profile = some p ∧ cfgOutFmt cfg ≠ 3 ∧
      ((isLegacy cfg gamlen = true ∧ t = legacyTopology) ∨
        (isLegacy cfg gamlen = false ∧ cfgIndexed cfg = false ∧
          ∃ r, familyMap p.family p.limCsc (requestOf cfg) = some r ∧ t = { r with cfmt := p.cfmt })) := by
  simp only [select] at h
  split at h
  · cases h
  · rename_i p
    split at h
    · cases h
    · rename_i hf
      refine ⟨p, rfl, hf, ?_⟩
      split at h
      · rename_i hl
        cases h
        exact .inl ⟨hl, rfl⟩
      · rename_i hl
        split at h
        · cases h
        · rename_i hx
          split at h
          · cases h
          · rename_i r hr
            cases h
            exact .inr ⟨by simpa using hl, by simpa using hx, r, hr, rfl⟩

/-- Everything TOPOSEL can do: it faults, or it stores the topology `select` answers. -/
theorem execToposel_cases {s t : State} (h : execToposel s = .next t) :
    (∃ f, select s.profile? s.cfg s.gamlen = .error f ∧ t = s.raise f) ∨
    (∃ r, select s.profile? s.cfg s.gamlen = .ok r ∧ t = s.storeTopology r) := by
  simp only [execToposel] at h
  split at h
  · rename_i f hf
    cases h
    exact .inl ⟨f, hf, rfl⟩
  · rename_i r hr
    cases h
    exact .inr ⟨r, hr, rfl⟩

/-- Everything LUTCMP can do: it faults on a length above the capacity, or it stores a comparison. -/
theorem execLutcmp_cases {s t : State} (h : execLutcmp s = .next t) :
    (∃ e a, t = s.raise (.sizeMismatch e a)) ∨ (∃ k, t = s.storeCompare 0 k) ∨ t = s.storeCompare 1 0 := by
  simp only [execLutcmp] at h
  split at h
  · cases h
    exact .inl ⟨_, _, rfl⟩
  · split at h
    · cases h
      exact .inr (.inl ⟨_, rfl⟩)
    · split at h
      · cases h
        exact .inr (.inl ⟨_, rfl⟩)
      · cases h
        exact .inr (.inr rfl)

end Sys2Proof.Machine
end

