-- ==== Sys2Proof/Laws/Exec.lean ====
section
/-! SUPPORT. What any operation can do, said once. -/

namespace Sys2Proof.Machine

/-- Everything an operation can do: it raises a fault, reports UNSUPPORTED, or stores its own results. -/
theorem exec_cases {i : Instr} {s t : State} (h : exec i s = .next t) :
    (∃ f, t = s.raise f) ∨ t = s.finish codeUnsupported ∨
    (∃ p words magSat mantSat, t = s.storeMatrix p words magSat mantSat) ∨
    (∃ coefs, t = { s with m := coefs }.finish codeOk) ∨
    (∃ sh ident, s.tableFits sh = true ∧
      t = s.storeTable sh (packLut s.params.tables sh (s.sourceLen sh ident) (s.source sh ident))) ∨
    (∃ sh, s.entriesFit sh = true ∧ t = s.storeEntries sh (unpackLut s.params.tables sh s.readHlutWord)) ∨
    (∃ r, select s.profile? s.cfg s.gamlen = .ok r ∧ t = s.storeTopology r) ∨
    (∃ k, t = s.storeCompare 0 k) ∨ t = s.storeCompare 1 0 := by
  have enc {sh ident} (h : encodeLut sh ident s = .next t) :
      (∃ f, t = s.raise f) ∨
        ∃ sh ident, s.tableFits sh = true ∧
          t = s.storeTable sh (packLut s.params.tables sh (s.sourceLen sh ident) (s.source sh ident)) := by
    rcases encodeLut_cases h with ⟨-, h⟩ | ⟨-, hf, h⟩ | ⟨-, -, h⟩
    · exact .inl ⟨_, h⟩
    · exact .inr ⟨_, _, hf, h⟩
    · exact .inl ⟨_, h⟩
  have dec {sh} (h : decodeLut sh s = .next t) :
      (∃ f, t = s.raise f) ∨
        ∃ sh, s.entriesFit sh = true ∧ t = s.storeEntries sh (unpackLut s.params.tables sh s.readHlutWord) := by
    rcases decodeLut_cases h with ⟨-, h⟩ | ⟨-, -, hf, h⟩ | ⟨-, -, _, _, h⟩
    · exact .inl ⟨_, h⟩
    · exact .inr ⟨_, hf, h⟩
    · exact .inl ⟨_, h⟩
  cases i <;> simp only [exec] at h
  case ctmenc =>
    rcases execCtmenc_cases h with h | ⟨p, w, a, b, -, -, h⟩
    · exact .inl ⟨_, h⟩
    · exact .inr (.inr (.inl ⟨p, w, a, b, h⟩))
  case ctmdec =>
    rcases execCtmdec_cases h with h | h | h
    · exact .inr (.inl h)
    · exact .inl ⟨_, h⟩
    · exact .inr (.inr (.inr (.inl h)))
  case toposel =>
    rcases execToposel_cases h with ⟨f, -, h⟩ | h
    · exact .inl ⟨f, h⟩
    · exact .inr (.inr (.inr (.inr (.inr (.inr (.inl h))))))
  case lutcmp =>
    rcases execLutcmp_cases h with ⟨e, a, h⟩ | h | h
    · exact .inl ⟨_, h⟩
    · exact .inr (.inr (.inr (.inr (.inr (.inr (.inr (.inl h)))))))
    · exact .inr (.inr (.inr (.inr (.inr (.inr (.inr (.inr h)))))))
  case lutencL8 | lutencI10p6 | lutencP10 | lutencS10 | lutencMs124 | lutencMono16 | lutencDp =>
    rcases enc h with h | h
    · exact .inl h
    · exact .inr (.inr (.inr (.inr (.inl h))))
  case lutdecL8 | lutdecI10p6 | lutdecP10 | lutdecS10 | lutdecMs124 | lutdecMono16 | lutdecDp =>
    rcases dec h with h | h
    · exact .inl h
    · exact .inr (.inr (.inr (.inr (.inr (.inl h)))))

end Sys2Proof.Machine
end

