-- ==== Sys2Proof/Laws/LutWords.lean ====
section
/-! SUPPORT. The hardware words as numbers, the channels unpacked from them as numbers, and the elements of a packed
and of an unpacked table. -/

namespace Sys2Proof.Machine

/-! ### Fields and channels -/

theorem toNat_field {w : Nat} (x : BitVec w) (pos len : Nat) :
    (x.extractLsb' pos len).toNat = x.toNat / 2 ^ pos % 2 ^ len := by
  rw [BitVec.extractLsb'_toNat, Nat.shiftRight_eq_div_pow]

theorem toNat_narrow {p : Nat} (h : p ≤ 16) (v : Chan) : (narrow p v).toNat = v.toNat / 2 ^ (16 - p) := by
  have h1 : v.toNat < 2 ^ (16 - p) * 2 ^ p := by
    rw [← Nat.pow_add, Nat.sub_add_cancel h]
    exact v.isLt
  rw [narrow, toNat_field, Nat.mod_eq_of_lt (Nat.div_lt_of_lt_mul h1)]

theorem toNat_widen {p : Nat} (h : p ≤ 16) (x : BitVec p) : (widen p x).toNat = 2 ^ (16 - p) * x.toNat := by
  rw [show widen p x = lane 16 x (16 - p) from rfl, toNat_lane x _ (by omega), Nat.mul_comm]

theorem toNat_joinLanes {j k : Nat} (pos : Nat) (hi : BitVec j) (lo : BitVec k) (hj : pos + j ≤ 16) (hk : k ≤ pos) :
    (joinLanes pos hi lo).toNat = 2 ^ pos * hi.toNat + lo.toNat := by
  have hd : (lane 16 hi pos).toNat % 2 ^ (0 + k) = 0 := by
    rw [toNat_lane hi pos hj, Nat.zero_add]
    exact Nat.mod_eq_zero_of_dvd ((Nat.pow_dvd_pow 2 hk).mul_left _)
  rw [joinLanes, toNat_or_lane _ _ _ (by omega) hd, toNat_lane hi pos hj, Nat.pow_zero, Nat.mul_one, Nat.mul_comm]

/-! ### Words -/

/-- Three fields in three lanes, none reaching into the next. -/
theorem toNat_threeLanes {j k l : Nat} (x : BitVec j) (y : BitVec k) (z : BitVec l) (px py pz : Nat)
    (hx : px + j ≤ 32) (hy : py + k ≤ px) (hz : pz + l ≤ py) :
    (lane 32 x px ||| lane 32 y py ||| lane 32 z pz).toNat = 2 ^ px * x.toNat + 2 ^ py * y.toNat + 2 ^ pz * z.toNat := by
  have h1 : (lane 32 x px ||| lane 32 y py).toNat = x.toNat * 2 ^ px + y.toNat * 2 ^ py := by
    have hd : (lane 32 x px).toNat % 2 ^ (py + k) = 0 := by
      rw [toNat_lane x px hx]
      exact Nat.mod_eq_zero_of_dvd ((Nat.pow_dvd_pow 2 hy).mul_left _)
    rw [toNat_or_lane _ _ _ (by omega) hd, toNat_lane x px hx]
  have hd : (lane 32 x px ||| lane 32 y py).toNat % 2 ^ (pz + l) = 0 := by
    rw [h1]
    exact Nat.mod_eq_zero_of_dvd (Nat.dvd_add ((Nat.pow_dvd_pow 2 (by omega)).mul_left _)
      ((Nat.pow_dvd_pow 2 hz).mul_left _))
  rw [toNat_or_lane _ _ _ (by omega) hd, h1]
  ring

theorem toNat_w8 (e : Entry) :
    (w8 e).toNat = 2 ^ 16 * (e.r.toNat / 2 ^ 8) + 2 ^ 8 * (e.g.toNat / 2 ^ 8) + e.b.toNat / 2 ^ 8 := by
  rw [w8, toNat_threeLanes _ _ _ _ _ _ (by decide) (by decide) (by decide)]
  simp [toNat_narrow]

theorem toNat_w10 (e : Entry) :
    (w10 e).toNat = 2 ^ 20 * (e.r.toNat / 2 ^ 6) + 2 ^ 10 * (e.g.toNat / 2 ^ 6) + e.b.toNat / 2 ^ 6 := by
  rw [w10, toNat_threeLanes _ _ _ _ _ _ (by decide) (by decide) (by decide)]
  simp [toNat_narrow]

theorem toNat_ldwI (e : Entry) :
    (ldwI e).toNat = 2 ^ 16 * (e.r.toNat % 2 ^ 8) + 2 ^ 8 * (e.g.toNat % 2 ^ 8) + e.b.toNat % 2 ^ 8 := by
  rw [ldwI, toNat_threeLanes _ _ _ _ _ _ (by decide) (by decide) (by decide)]
  simp

theorem toNat_udwI (e : Entry) :
    (udwI e).toNat = 2 ^ 16 * (e.r.toNat / 2 ^ 8) + 2 ^ 8 * (e.g.toNat / 2 ^ 8) + e.b.toNat / 2 ^ 8 := by
  have h1 := e.r.isLt
  have h2 := e.g.isLt
  have h3 := e.b.isLt
  rw [udwI, toNat_threeLanes _ _ _ _ _ _ (by decide) (by decide) (by decide), toNat_field, toNat_field, toNat_field]
  omega

theorem toNat_ldw12 (e : Entry) :
    (ldw12 e).toNat = 2 ^ 24 * (e.r.toNat % 2 ^ 6) + 2 ^ 14 * (e.g.toNat % 2 ^ 6) + 2 ^ 4 * (e.b.toNat % 2 ^ 6) := by
  rw [ldw12, toNat_threeLanes _ _ _ _ _ _ (by decide) (by decide) (by decide)]
  simp

theorem toNat_udw12 (e : Entry) :
    (udw12 e).toNat = 2 ^ 20 * (e.r.toNat / 2 ^ 6) + 2 ^ 10 * (e.g.toNat / 2 ^ 6) + e.b.toNat / 2 ^ 6 := by
  have h1 := e.r.isLt
  have h2 := e.g.isLt
  have h3 := e.b.isLt
  rw [udw12, toNat_threeLanes _ _ _ _ _ _ (by decide) (by decide) (by decide), toNat_field, toNat_field, toNat_field]
  omega

theorem toNat_wMono (e : Entry) : (wMono e).toNat = e.g.toNat := by
  have := e.g.isLt
  simp only [wMono, BitVec.toNat_setWidth]
  omega

theorem toNat_ldwDp {p : Nat} (h : p ≤ 16) (e : Entry) :
    (ldwDp p e).toNat = 2 ^ 16 * (e.g.toNat / 2 ^ (16 - p)) + e.b.toNat / 2 ^ (16 - p) := by
  have hd : (lane 32 (narrow p e.g) 16).toNat % 2 ^ (0 + p) = 0 := by
    rw [toNat_lane _ _ (by omega), Nat.zero_add]
    exact Nat.mod_eq_zero_of_dvd ((Nat.pow_dvd_pow 2 h).mul_left _)
  rw [ldwDp, toNat_or_lane _ _ _ (by omega) hd, toNat_lane _ _ (by omega), toNat_narrow h, toNat_narrow h]
  omega

theorem toNat_udwDp {p : Nat} (h : p ≤ 16) (e : Entry) : (udwDp p e).toNat = e.r.toNat / 2 ^ (16 - p) := by
  rw [udwDp, toNat_lane _ _ (by omega), toNat_narrow h, Nat.pow_zero, Nat.mul_one]

/-! ### The elements of a packed table -/

variable (len : TableLens) (n : Nat) (src : Nat → Entry) (word : Nat → Word)

theorem packLut_l8 {i : Nat} (h : i < len.l8) : (packLut len .l8 n src)[i]? = some (w8 (src i)) := by
  simp [packLut, h]

theorem packLut_p10 {i : Nat} (h : i < len.p10) : (packLut len .p10 n src)[i]? = some (w10 (src i)) := by
  simp [packLut, h]

theorem packLut_s10 (sz : HalfSize) (half : Half) {i : Nat} (h : i < halfEntries len sz) :
    (packLut len (.s10 sz half) n src)[i]? = some (w10 (src (downsample n (halfEntries len sz) i))) := by
  simp [packLut, h]

theorem packLut_mono16 {i : Nat} (h : i < len.mono) : (packLut len .mono16 n src)[i]? = some (wMono (src i)) := by
  simp [packLut, h]

theorem packLut_dp (w : DpWidth) {i : Nat} (h : i < dpEntries len w) :
    (packLut len (.dp w) n src)[2 * i]? = some (ldwDp (dpBits w) (src i)) ∧
      (packLut len (.dp w) n src)[2 * i + 1]? = some (udwDp (dpBits w) (src i)) := by
  have hi : i < ((List.range (dpEntries len w)).map src).length := by simpa using h
  exact ⟨by simpa [packLut] using packPairs_even _ _ _ hi, by simpa [packLut] using packPairs_odd _ _ _ hi⟩

theorem packLut_i10p6 {i : Nat} (h : i < len.i10p6 - 1) :
    (packLut len .i10p6 n src)[2 * i]? = some (ldwI (src i)) ∧
      (packLut len .i10p6 n src)[2 * i + 1]? = some (udwI (src i)) := by
  have hi : i < ((List.range (len.i10p6 - 1)).map src).length := by simpa using h
  constructor
  · rw [packLut, List.getElem?_append_left (by simp; omega), packPairs_even _ _ _ hi]
    simp
  · rw [packLut, List.getElem?_append_left (by simp; omega), packPairs_odd _ _ _ hi]
    simp

theorem packLut_i10p6_max :
    (packLut len .i10p6 n src)[2 * (len.i10p6 - 1)]? = some ((src (len.i10p6 - 1)).r.setWidth 32) ∧
      (packLut len .i10p6 n src)[2 * (len.i10p6 - 1) + 1]? = some ((src (len.i10p6 - 1)).g.setWidth 32) ∧
      (packLut len .i10p6 n src)[2 * (len.i10p6 - 1) + 2]? = some ((src (len.i10p6 - 1)).b.setWidth 32) := by
  refine ⟨?_, ?_, ?_⟩ <;> rw [packLut, List.getElem?_append_right (by simp)] <;> simp [maxWords]

/-- The source index of pair `k` of MS124. -/
theorem ms124Picks_get {k : Nat} (h : k < 521) :
    ms124Picks[k]? = some (if k ≤ 8 then k else if k ≤ 264 then 8 * (k - 8) else 1024 * (k - 265)) := by
  rw [ms124Picks]
  by_cases h1 : k < 9
  · rw [List.append_assoc, List.getElem?_append_left (by simpa using h1), if_pos (by omega)]
    simp [h1]
  · rw [List.append_assoc, List.getElem?_append_right (by simp; omega), if_neg (by omega), List.length_range]
    by_cases h2 : k < 265
    · rw [List.getElem?_append_left (by simp; omega), if_pos (by omega), List.getElem?_map,
        List.getElem?_range (by omega), Option.map_some]
      congr 2
      omega
    · have h3 : k - 9 - 256 < 256 := by omega
      rw [List.getElem?_append_right (by simp; omega), if_neg (by omega), List.getElem?_map, List.length_map,
        List.length_range, List.getElem?_range h3, Option.map_some, Nat.sub_sub]

theorem packLut_ms124 {k j : Nat} (h : ms124Picks[k]? = some j) :
    (packLut len .ms124 n src)[2 * k]? = some (ldw12 (src j)) ∧
      (packLut len .ms124 n src)[2 * k + 1]? = some (udw12 (src j)) := by
  obtain ⟨hk, hj⟩ := List.getElem?_eq_some_iff.mp h
  have hi : k < (ms124Picks.map src).length := by simpa using hk
  rw [ms124Picks_length] at hk
  constructor
  · rw [packLut, List.getElem?_append_left (by simp; omega), packPairs_even _ _ _ hi]
    simp [hj]
  · rw [packLut, List.getElem?_append_left (by simp; omega), packPairs_odd _ _ _ hi]
    simp [hj]

theorem packLut_ms124_max :
    (packLut len .ms124 n src)[1042]? = some ((src (ms124Max len)).r.setWidth 32) ∧
      (packLut len .ms124 n src)[1043]? = some ((src (ms124Max len)).g.setWidth 32) ∧
      (packLut len .ms124 n src)[1044]? = some ((src (ms124Max len)).b.setWidth 32) := by
  refine ⟨?_, ?_, ?_⟩ <;> rw [packLut, List.getElem?_append_right (by simp)] <;> simp [maxWords]

/-! ### The elements of an unpacked table -/

theorem unpackLut_l8 {i : Nat} (h : i < len.l8) : (unpackLut len .l8 word)[i]? = some (ofW8 (word i)) := by
  simp [unpackLut, h]

theorem unpackLut_p10 {i : Nat} (h : i < len.p10) : (unpackLut len .p10 word)[i]? = some (ofW10 (word i)) := by
  simp [unpackLut, h]

theorem unpackLut_s10 (sz : HalfSize) (half : Half) {i : Nat} (h : i < halfEntries len sz) :
    (unpackLut len (.s10 sz half) word)[i]? = some (ofW10 (word i)) := by
  simp [unpackLut, h]

theorem unpackLut_mono16 {i : Nat} (h : i < len.mono) : (unpackLut len .mono16 word)[i]? = some (ofMono (word i)) := by
  simp [unpackLut, h]

theorem unpackLut_dp (w : DpWidth) {i : Nat} (h : i < dpEntries len w) :
    (unpackLut len (.dp w) word)[i]? = some (ofPairDp (dpBits w) (word (2 * i)) (word (2 * i + 1))) := by
  simp [unpackLut, h]

theorem unpackLut_i10p6 {i : Nat} (h : i < len.i10p6 - 1) :
    (unpackLut len .i10p6 word)[i]? = some (ofPairI (word (2 * i)) (word (2 * i + 1))) := by
  rw [unpackLut, List.getElem?_append_left (by simpa using h)]
  simp [h]

theorem unpackLut_i10p6_max :
    (unpackLut len .i10p6 word)[len.i10p6 - 1]? =
      some (ofMaxWords (word (2 * (len.i10p6 - 1))) (word (2 * (len.i10p6 - 1) + 1))
        (word (2 * (len.i10p6 - 1) + 2))) := by
  rw [unpackLut, List.getElem?_append_right (by simp)]
  simp

theorem unpackLut_ms124 {i : Nat} (h : i < 521) :
    (unpackLut len .ms124 word)[i]? = some (ofPair12 (word (2 * i)) (word (2 * i + 1))) := by
  rw [unpackLut, List.getElem?_append_left (by simpa using h)]
  simp [h]

theorem unpackLut_ms124_max :
    (unpackLut len .ms124 word)[521]? = some (ofMaxWords (word 1042) (word 1043) (word 1044)) := by
  rw [unpackLut, List.getElem?_append_right (by simp)]
  simp

/-! ### The table a LUTENC stores and the entries a LUTDEC stores -/

/-- A word of the table a LUTENC stores. -/
theorem storeTable_read {s : State} {sh : LutShape} {words : List Word} {i : Nat} {w : Word}
    (h : words[i]? = some w) (hcap : i < s.params.hlutCap) : (s.storeTable sh words).readHlutWord i = w := by
  obtain ⟨hi, rfl⟩ := List.getElem?_eq_some_iff.mp h
  exact State.readHlutWord_prefix (s := s) rfl hi hcap

/-- A word beyond the table a LUTENC stores. -/
theorem storeTable_read_beyond {s : State} {sh : LutShape} {words : List Word} {i : Nat} (h : words.length ≤ i) :
    (s.storeTable sh words).readHlutWord i = s.readHlutWord i :=
  State.readHlutWord_beyond (s := s) (vals := words) rfl rfl rfl h

/-- An entry of those a LUTDEC stores. -/
theorem storeEntries_read {s : State} {sh : LutShape} {entries : List Entry} {i : Nat} {e : Entry}
    (h : entries[i]? = some e) (hcap : i < s.params.clutCap) : (s.storeEntries sh entries).readEntry .clut0 i = e := by
  obtain ⟨hi, rfl⟩ := List.getElem?_eq_some_iff.mp h
  exact State.readEntry_prefix (s := s) rfl hi hcap

/-- An entry beyond those a LUTDEC stores. -/
theorem storeEntries_read_beyond {s : State} {sh : LutShape} {entries : List Entry} {i : Nat}
    (h : entries.length ≤ i) : (s.storeEntries sh entries).readEntry .clut0 i = s.readEntry .clut0 i :=
  State.readEntry_beyond (s := s) (vals := entries) rfl rfl rfl h

end Sys2Proof.Machine
end

