-- ==== Sys2Proof/Laws/Outcome.lean ====
section
/-! SUPPORT. How an operation ends, as a number in `STATUS`. -/

namespace Sys2Proof.Machine

/-- `STATUS` is its sticky bits above its code. -/
theorem toNat_statusOf (sticky : BitVec 8) (code : BitVec 4) :
    (statusOf sticky code).toNat = 256 * sticky.toNat + code.toNat := by
  rw [statusOf, toNat_or_lane _ _ _ (by decide), toNat_lane _ _ (by decide)]
  · omega
  · rw [toNat_lane _ _ (by decide)]
    omega

/-- The one sticky bit of a fault's code. -/
theorem toNat_stickyBit (f : OpFault) : (1#8 <<< f.code.toNat).toNat = 2 ^ f.code.toNat := by
  cases f <;> rfl

/-- A state whose `STATUS` was finished with a code that is no fault ended with that code. -/
theorem EndsWith.of_finish {s t : State} {code : BitVec 4} (hc : code.toNat < 2)
    (h : t.status = statusFinish code s.status) : EndsWith s t code.toNat := by
  rw [EndsWith, h, statusFinish, toNat_statusOf, if_neg (by omega), Nat.or_zero]

/-- A state whose `STATUS` was raised with a fault ended with the fault's code. -/
theorem EndsWith.of_raise {s t : State} {f : OpFault} (h : t.status = statusRaise f.code s.status) :
    EndsWith s t f.code.toNat := by
  have := f.code_range
  rw [EndsWith, h, statusRaise, toNat_statusOf, if_pos this.1, BitVec.toNat_or, toNat_stickyBit]

/-- An operation ends with one code. -/
theorem EndsWith.unique {s t : State} {a b : Nat} (ha : EndsWith s t a) (hb : EndsWith s t b) : a = b := by
  have key : ∀ {c : Nat}, EndsWith s t c → c < 8 := by
    intro c hc
    by_contra hlt
    rw [EndsWith, if_pos (by omega)] at hc
    have h1 := t.status.isLt
    have h2 : 2 ^ c ≤ (statusSticky s.status).toNat ||| 2 ^ c := Nat.right_le_or
    have h3 : 2 ^ 8 ≤ 2 ^ c := Nat.pow_le_pow_right (by decide) (by omega)
    omega
  have h1 := key ha
  have h2 := key hb
  rw [EndsWith] at ha hb
  omega

end Sys2Proof.Machine
end

