-- ==== Sys2Proof/Laws/PerInstr.lean ====
section
/-! SUPPORT. One law per instruction: its command word selects its own row of the opcode map and passes the five
decoding tests (30_encoding.md R75, R76). -/

namespace Sys2Proof.Laws.OpcodeRow

/-- The word of an instruction selects the instruction's row, the row has all its match bits under the mask, and the
word's fields pass the five tests. -/
def Statement (i : Instr) : Prop :=
  (rowOf i).selects (encode i) = true ∧ (rowOf i).pattern &&& ~~~(rowOf i).mask = 0 ∧ (fieldsOf (encode i)).wellFormed = true

theorem ctmenc : Statement .ctmenc := ⟨rfl, rfl, rfl⟩
theorem ctmdec : Statement .ctmdec := ⟨rfl, rfl, rfl⟩

theorem lutencL8 (ident : Bool) : Statement (.lutencL8 ident) := by
  cases ident <;> exact ⟨rfl, rfl, rfl⟩

theorem lutencI10p6 (ident : Bool) : Statement (.lutencI10p6 ident) := by
  cases ident <;> exact ⟨rfl, rfl, rfl⟩

theorem lutencP10 (ident : Bool) : Statement (.lutencP10 ident) := by
  cases ident <;> exact ⟨rfl, rfl, rfl⟩

theorem lutencS10 (sz : HalfSize) (half : Half) (ident : Bool) : Statement (.lutencS10 sz half ident) := by
  cases sz <;> cases half <;> cases ident <;> exact ⟨rfl, rfl, rfl⟩

theorem lutencMs124 (ident : Bool) : Statement (.lutencMs124 ident) := by
  cases ident <;> exact ⟨rfl, rfl, rfl⟩

theorem lutencMono16 (ident : Bool) : Statement (.lutencMono16 ident) := by
  cases ident <;> exact ⟨rfl, rfl, rfl⟩

theorem lutencDp (w : DpWidth) (ident : Bool) : Statement (.lutencDp w ident) := by
  cases w <;> cases ident <;> exact ⟨rfl, rfl, rfl⟩

theorem lutdecL8 : Statement .lutdecL8 := ⟨rfl, rfl, rfl⟩
theorem lutdecI10p6 : Statement .lutdecI10p6 := ⟨rfl, rfl, rfl⟩
theorem lutdecP10 : Statement .lutdecP10 := ⟨rfl, rfl, rfl⟩

theorem lutdecS10 (sz : HalfSize) (half : Half) : Statement (.lutdecS10 sz half) := by
  cases sz <;> cases half <;> exact ⟨rfl, rfl, rfl⟩

theorem lutdecMs124 : Statement .lutdecMs124 := ⟨rfl, rfl, rfl⟩
theorem lutdecMono16 : Statement .lutdecMono16 := ⟨rfl, rfl, rfl⟩

theorem lutdecDp (w : DpWidth) : Statement (.lutdecDp w) := by cases w <;> exact ⟨rfl, rfl, rfl⟩

theorem toposel : Statement .toposel := ⟨rfl, rfl, rfl⟩
theorem lutcmp : Statement .lutcmp := ⟨rfl, rfl, rfl⟩

end Sys2Proof.Laws.OpcodeRow
end

