-- ==== Sys2Proof/Laws/Selection.lean ====
section
/-! SUPPORT. TOPOSEL in the words claims use: its inputs as bits of `CFG`, when the family mapping is reached, and what
an accepted and a rejected configuration leave. -/

namespace Sys2Proof.Machine

theorem toNat_cfgOutFmt (c : BitVec 7) : (cfgOutFmt c).toNat = c.toNat / 8 % 4 := by
  simp [cfgOutFmt, BitVec.extractLsb'_toNat, Nat.shiftRight_eq_div_pow]

theorem cfgOutFmt_eq_three (c : BitVec 7) : cfgOutFmt c = 3 ↔ c.toNat / 8 % 4 = 3 := by
  rw [← toNat_cfgOutFmt, ← BitVec.toNat_inj]
  rfl

theorem cfgYcbcr_eq (s : State) : cfgYcbcr s.cfg = s.wantsYcbcr := by
  unfold cfgYcbcr State.wantsYcbcr
  rw [← toNat_cfgOutFmt]
  generalize cfgOutFmt s.cfg = x
  revert x
  decide

theorem isLegacy_iff (cfg : BitVec 7) (gamlen : Word) :
    isLegacy cfg gamlen = true ↔
      (cfg.getLsbD 1 = true ∧ gamlen.toNat = 256 ∧ cfg.getLsbD 0 = false ∧ cfg.getLsbD 2 = false) := by
  have : gamlen = 256 ↔ gamlen.toNat = 256 := by
    rw [← BitVec.toNat_inj]
    rfl
  simp [isLegacy, cfgGamma, cfgDegamma, cfgCtm, ← this, and_assoc]

/-- A dispatched configuration is answered by the family's mapping. -/
theorem select_dispatched {s : State} {p : Profile} (h : Dispatched s p) :
    select s.profile? s.cfg s.gamlen =
      match familyMap p.family p.limCsc (requestOf s.cfg) with
      | none => .error .unsupportedCombination
      | some t => .ok { t with cfmt := p.cfmt } := by
  obtain ⟨h1, h2, h3, h4⟩ := h
  rw [← isLegacy_iff, Bool.not_eq_true] at h3
  simp only [select, State.profile?, h1]
  refine (if_neg (by rwa [cfgOutFmt_eq_three])).trans ((if_neg (by simp [h3])).trans
    ((if_neg (by simpa [cfgIndexed] using h4)).trans ?_))
  cases familyMap p.family p.limCsc (requestOf s.cfg) <;> rfl

/-- An accepted configuration gives the six results of its topology. -/
theorem toposelGives_of_select {s : State} {r : Topology} (h : select s.profile? s.cfg s.gamlen = .ok r)
    {topo gammaMode cscMode cgmMode prec lutfmt : Nat} (h1 : r.word = BitVec.ofNat 12 topo)
    (h2 : r.gammaMode = BitVec.ofNat 32 gammaMode) (h3 : r.cscMode = BitVec.ofNat 32 cscMode)
    (h4 : r.cgmMode = BitVec.ofNat 3 cgmMode) (h5 : r.precision = BitVec.ofNat 5 prec)
    (h6 : r.lutfmt = BitVec.ofNat 18 lutfmt) : ToposelGives s topo gammaMode cscMode cgmMode prec lutfmt := by
  refine ⟨s.storeTopology r, by simp only [exec, execToposel, h],
    EndsWith.of_finish (code := codeOk) (by decide) rfl, ?_⟩
  rw [← h1, ← h2, ← h3, ← h4, ← h5, ← h6]
  rfl

/-- A rejected configuration changes `STATUS` only. -/
theorem toposel_rejected {s : State} {f : OpFault} (h : select s.profile? s.cfg s.gamlen = .error f)
    (hf : f = .unsupportedCombination ∨ f = .incompatibleIndexedMode) :
    ∃ t, exec .toposel s = .next t ∧ OnlyStatus s t f.code.toNat := by
  refine ⟨s.raise f, by simp only [exec, execToposel, h], EndsWith.of_raise rfl, ?_⟩
  rcases hf with rfl | rfl <;> rfl

end Sys2Proof.Machine
end

