-- ==== Sys2Proof/Laws/Tables.lean ====
section
/-! SUPPORT. LUTENC and LUTDEC in the words claims use: which lengths are accepted, what a refused length leaves, what a
stored table and stored entries leave, and where each source entry comes from. -/

namespace Sys2Proof.Machine

/-- The capacities of well-formed launch parameters. -/
theorem Params.caps_of_wellFormed {p : Params} (h : p.wellFormed = true) :
    p.clutCap < 2 ^ 32 ∧ p.hlutCap < 2 ^ 32 := by
  simp [Params.wellFormed, Params.clutCapFits, Params.hlutCapFits] at h
  omega

/-- Every source length of well-formed launch parameters has two entries and is below 2^31. -/
theorem lutNeed_bounds {p : Params} (h : p.wellFormed = true) (sh : LutShape) :
    2 ≤ lutNeed p.tables sh ∧ lutNeed p.tables sh < 2 ^ 31 := by
  simp [Params.wellFormed, Params.tablesFit, tableLenFits] at h
  rcases sh with _ | _ | _ | ⟨⟨⟩, ⟨⟩⟩ | _ | _ | ⟨⟨⟩⟩ <;> simp only [lutNeed, halfEntries, dpEntries] <;> omega

/-- Every pick of MS124 is a source entry. -/
theorem ms_gt_of_wellFormed {p : Params} (h : p.wellFormed = true) : 1024 * 255 < p.tables.ms := by
  simp [Params.wellFormed, Params.tablesFit] at h
  omega

theorem lutNeed_eq (len : TableLens) (sh : LutShape) : lutNeed len sh = (tableColumns len sh).1 := by
  rcases sh with _ | _ | _ | ⟨⟨⟩, ⟨⟩⟩ | _ | _ | ⟨⟨⟩⟩ <;> rfl

theorem lutHwEntries_eq (len : TableLens) (sh : LutShape) : lutHwEntries len sh = (tableColumns len sh).2.1 := by
  rcases sh with _ | _ | _ | ⟨⟨⟩, ⟨⟩⟩ | _ | _ | ⟨⟨⟩⟩ <;> rfl

theorem lutWords_eq (len : TableLens) (sh : LutShape) : lutWords len sh = (tableColumns len sh).2.2 := by
  rcases sh with _ | _ | _ | ⟨⟨⟩, ⟨⟩⟩ | _ | _ | ⟨⟨⟩⟩ <;> rfl

/-- A word count, an entry count and a half's begin fit a length register. -/
theorem lengths_lt {p : Params} (h : p.wellFormed = true) (sh : LutShape) :
    lutWords p.tables sh < 2 ^ 32 ∧ lutHwEntries p.tables sh < 2 ^ 32 ∧ lutBase p.tables sh < 2 ^ 32 := by
  have hn := lutNeed_bounds h sh
  rcases sh with _ | _ | _ | ⟨⟨⟩, ⟨⟩⟩ | _ | _ | ⟨⟨⟩⟩ <;>
    simp only [lutNeed, lutWords, lutHwEntries, lutBase, halfEntries, dpEntries] at * <;> omega

theorem tableFits_iff {s : State} {sh : LutShape} : s.tableFits sh = true ↔ EncodeFits s sh := by
  simp [State.tableFits, EncodeFits, State.columns, lutWords_eq]

theorem decodeFits_iff {s : State} {sh : LutShape} :
    (s.tableFits sh && s.entriesFit sh) = true ↔ DecodeFits s sh := by
  simp [State.tableFits, State.entriesFit, DecodeFits, State.columns, lutWords_eq, lutHwEntries_eq]

/-- The length check of a LUTENC passes exactly with `ID` or a length the shape accepts. -/
theorem sourceRejected_eq_false (s : State) (sh : LutShape) (ident : Bool) :
    s.sourceRejected sh ident = false ↔ (ident = true ∨ SourceAccepted s sh) := by
  unfold State.sourceRejected SourceAccepted
  cases ident with
  | true => simp
  | false =>
    rcases sh with _ | _ | _ | ⟨⟨⟩, ⟨⟩⟩ | _ | _ | ⟨⟨⟩⟩ <;>
      simp [lengthAccepted, lutNeed_eq, State.columns, tableColumns] <;> omega

/-- A LUTENC whose length is refused ends with SIZE_MISMATCH. -/
theorem encodeLut_mismatch {s : State} {sh : LutShape} {ident : Bool} (hp : s.params.wellFormed = true)
    (h : ¬(ident = true ∨ SourceAccepted s sh)) :
    ∃ t, encodeLut sh ident s = .next t ∧ SizeMismatchRaised s t (lutNeed s.params.tables sh) s.clen0.toNat := by
  have hr : s.sourceRejected sh ident = true := by
    rw [← sourceRejected_eq_false] at h
    simpa using h
  have hn := lutNeed_bounds hp sh
  refine ⟨_, by rw [encodeLut, if_pos hr], EndsWith.of_raise (f := .sizeMismatch _ _) rfl, ?_, ?_, rfl⟩
  · simp only [State.raise_errExpected, OpFault.expected, Option.getD_some, BitVec.toNat_ofNat]
    omega
  · rfl

/-- A LUTENC whose length is accepted and whose table fits stores its table. -/
theorem encodeLut_stored {s : State} {sh : LutShape} {ident : Bool} (hp : s.params.wellFormed = true)
    (h : ident = true ∨ SourceAccepted s sh) (hf : EncodeFits s sh) :
    ∃ t, encodeLut sh ident s = .next t ∧
      TableStored s t (lutWords s.params.tables sh) (lutBase s.params.tables sh) ∧
      t = s.storeTable sh (packLut s.params.tables sh (s.sourceLen sh ident) (s.source sh ident)) := by
  obtain ⟨hw, -, hb⟩ := lengths_lt hp sh
  refine ⟨_, encodeLut_ok ((sourceRejected_eq_false _ _ _).mpr h) (tableFits_iff.mpr hf),
    ⟨rfl, EndsWith.of_finish (code := codeOk) (by decide) rfl, ?_, ?_, fun j hj => ?_⟩, rfl⟩
  · simpa only [State.storeTable_hlen, BitVec.toNat_ofNat] using Nat.mod_eq_of_lt hw
  · simpa only [State.storeTable_hbase, BitVec.toNat_ofNat] using Nat.mod_eq_of_lt hb
  · exact storeTable_read_beyond (by simpa using hj)

/-- A LUTENC whose length is accepted and whose table does not fit ends with SIZE_MISMATCH. -/
theorem encodeLut_misfit {s : State} {sh : LutShape} {ident : Bool} (h : ident = true ∨ SourceAccepted s sh)
    (hf : ¬EncodeFits s sh) : ∃ t, encodeLut sh ident s = .next t ∧ SizeMismatchOnly s t := by
  have hr := (sourceRejected_eq_false _ _ _).mpr h
  have ht : s.tableFits sh = false := by
    rw [← tableFits_iff] at hf
    simpa using hf
  exact ⟨_, by rw [encodeLut, if_neg (by simp [hr]), if_neg (by simp [ht])],
    EndsWith.of_raise (f := misfit _ _ _) rfl, rfl⟩

/-- Where a source entry comes from: `CLUT0`, or the ramp, inside it. -/
theorem sourceEntry_source (s : State) (sh : LutShape) (ident : Bool) {i : Nat}
    (hi : i < lutNeed s.params.tables sh ∨ ident = false) :
    SourceEntry s ident (lutNeed s.params.tables sh) i (s.source sh ident i) := by
  unfold SourceEntry State.source
  cases ident with
  | false => simp
  | true =>
    have hi : i < lutNeed s.params.tables sh := by simpa using hi
    have hv : i * 0xFFFF / (lutNeed s.params.tables sh - 1) ≤ 0xFFFF := by
      apply Nat.div_le_of_le_mul
      have : i ≤ lutNeed s.params.tables sh - 1 := by omega
      nlinarith
    refine .inr ⟨rfl, ?_, rfl, rfl⟩
    simp only [rampEntry, if_true, BitVec.toNat_ofNat]
    exact Nat.mod_eq_of_lt (Nat.lt_succ_of_le hv)

/-- A LUTDEC whose length is refused ends with SIZE_MISMATCH. -/
theorem decodeLut_mismatch {s : State} {sh : LutShape} (hp : s.params.wellFormed = true)
    (h : s.hlen.toNat ≠ lutWords s.params.tables sh) :
    ∃ t, decodeLut sh s = .next t ∧ SizeMismatchRaised s t (lutWords s.params.tables sh) s.hlen.toNat := by
  obtain ⟨hn, -⟩ := lengths_lt hp sh
  refine ⟨_, by rw [decodeLut, if_pos h], EndsWith.of_raise (f := .sizeMismatch _ _) rfl, ?_, rfl, rfl⟩
  simpa only [State.raise_errExpected, OpFault.expected, Option.getD_some, BitVec.toNat_ofNat]
    using Nat.mod_eq_of_lt hn

/-- A LUTDEC whose length is accepted and whose words and entries fit stores its entries. -/
theorem decodeLut_stored {s : State} {sh : LutShape} (hp : s.params.wellFormed = true)
    (h : s.hlen.toNat = lutWords s.params.tables sh) (hf : DecodeFits s sh) :
    ∃ t, decodeLut sh s = .next t ∧ EntriesStored s t (lutHwEntries s.params.tables sh) ∧
      t = s.storeEntries sh (unpackLut s.params.tables sh s.readHlutWord) := by
  obtain ⟨-, hw, -⟩ := lengths_lt hp sh
  have hi : 1 ≤ s.params.tables.i10p6 := by
    have := lutNeed_bounds hp .i10p6
    simp only [lutNeed] at this
    omega
  have hfit := decodeFits_iff.mpr hf
  simp only [Bool.and_eq_true] at hfit
  refine ⟨_, decodeLut_ok h hfit.1 hfit.2,
    ⟨rfl, EndsWith.of_finish (code := codeOk) (by decide) rfl, ?_, fun j hj => ?_⟩, rfl⟩
  · simpa only [State.storeEntries_clen0, BitVec.toNat_ofNat] using Nat.mod_eq_of_lt hw
  · exact storeEntries_read_beyond (by simpa [hi] using hj)

/-- A LUTDEC whose length is accepted and whose words or entries do not fit ends with SIZE_MISMATCH. -/
theorem decodeLut_misfit {s : State} {sh : LutShape} (h : s.hlen.toNat = lutWords s.params.tables sh)
    (hf : ¬DecodeFits s sh) : ∃ t, decodeLut sh s = .next t ∧ SizeMismatchOnly s t := by
  rw [← decodeFits_iff] at hf
  rw [decodeLut, if_neg (by omega)]
  split
  · exact ⟨_, rfl, EndsWith.of_raise (f := misfit _ _ _) rfl, rfl⟩
  · split
    · exact ⟨_, rfl, EndsWith.of_raise (f := misfit _ _ _) rfl, rfl⟩
    · simp_all

end Sys2Proof.Machine
end

