-- ==== Sys2Proof/Tests/Slice0.lean ====
section
/-! SUPPORT. Tests on fixed values. The expected values are the words of the opcode map (30_encoding.md R76), worked
examples of the rules, and the vectors of 95_test_vectors.md, as each comment says. The theorems named
`test_witness_…` show states and operands that meet the hypotheses of the statement they name. -/

namespace Sys2Proof.Tests

open Sys2Proof.Machine

/-! ### Small states -/

/-- The next state of an instruction. -/
def after (i : Instr) (s : State) : Option State :=
  match exec i s with
  | .next t => some t
  | .fault _ => none
  | .refused _ => none

/-- The next state of a step. -/
def stepped (s : State) : Option State :=
  match step s with
  | .next t => some t
  | .fault _ => none
  | .refused _ => none

/-- Reset with a tag and a configuration. -/
def tagged (gen : BitVec 4) (cfg : BitVec 7) : State := { State.reset with gen := gen, cfg := cfg }

/-- The entry of the worked examples of 41_lut_transcoder.md. -/
def sample : Entry := ⟨0x1234, 0xABCD, 0xFFFF⟩

/-- The sample entry at the first and last of `n` indices of `CLUT0`. -/
def sampled (n : Nat) : State :=
  { State.reset with clut0 := [(0, sample), (n - 1, sample)], clen0 := BitVec.ofNat 32 n }

/-- Some words of `HLUT`, with a declared length. -/
def holding (words : Memory Word) (n : Nat) : State :=
  { State.reset with hlut := words, hlen := BitVec.ofNat 32 n }

/-- A declared source length only. -/
def sized (n : Nat) : State := { State.reset with clen0 := BitVec.ofNat 32 n }

/-- The matrix of vector V4. -/
def matrixV4 : Nine Coef :=
  ⟨0x0000000012345678, 0xFFFFFFFFAAAAAAAA, 0x0000000355555555, 0x0000000A00000000, 0xFFFFFFFE80000000,
    0x000000007FFFFFFF, 0x8000000000000000, 0x00000000DBDBDBDB, 0x0000000000000000⟩

/-- A profile with a format and no readback, which the reference table has not. -/
def noReadback : Params :=
  { Params.reference with
    profiles := [⟨"X", .ivb, 1024, 1024, 0, 0, .fpSm, 4, false, false⟩] }

/-- The reference launch with other table lengths. -/
def withTables (len : TableLens) : Params := { Params.reference with tables := len }

/-- A well-formed launch with two small buffers and one short table. -/
def small : Params :=
  { Params.reference with
    tables := { TableLens.reference with p10 := 3, i10p6 := 3 }, clutCap := 32, hlutCap := 33 }

/-! ### WellFormed refuses an ill-formed term for each check -/

theorem test_reservedHi_refused : (CommandFields.mk 0x01 0 0 1 0 0).wellFormed = false := by decide
theorem test_reservedLo_refused : (CommandFields.mk 0x10 0 0 0 1 0x80).wellFormed = false := by decide
theorem test_op_refused : (CommandFields.mk 0x00 0 0 0 0 0).wellFormed = false := by decide
theorem test_operand_refused : (CommandFields.mk 0x20 0 1 0 0 0).wellFormed = false := by decide
theorem test_ident_refused : (CommandFields.mk 0x11 0 0 0 1 0).wellFormed = false := by decide
theorem test_shape_refused : (CommandFields.mk 0x10 7 0 0 0 0).wellFormed = false := by decide
theorem test_arg_refused : (CommandFields.mk 0x10 6 2 0 0 0).wellFormed = false := by decide
theorem test_fields_accepted : (CommandFields.mk 0x10 3 3 0 1 0).wellFormed = true := by decide

theorem test_tags_refused :
    ({ Params.reference with profiles := Profile.reference ++ Profile.reference ++ [noReadback.profiles[0]] } :
      Params).wellFormed = false := by decide
theorem test_magnitude_refused :
    ({ Params.reference with profiles := [⟨"X", .ivb, 0, 0, 0, 0, .fpSm, 8, false, true⟩] } : Params).wellFormed =
      false := by decide
theorem test_limCsc_refused :
    ({ Params.reference with profiles := [⟨"X", .icl, 0, 0, 0, 0, .fpSm, 4, true, true⟩] } : Params).wellFormed =
      false := by decide
theorem test_clutCap_refused :
    ({ Params.reference with clutCap := 4294967296 } : Params).wellFormed = false := by decide
theorem test_hlutCap_refused :
    ({ Params.reference with hlutCap := 4294967296 } : Params).wellFormed = false := by decide
theorem test_tableLen_refused :
    (withTables { TableLens.reference with p10 := 1 }).wellFormed = false ∧
      (withTables { TableLens.reference with ms := 261120 }).wellFormed = false := by decide
theorem test_params_accepted :
    Params.reference.wellFormed = true ∧ (withTables { TableLens.reference with p10 := 2, ms := 261121 }).wellFormed = true ∧
      ({ Params.reference with clutCap := 0, hlutCap := 0 } : Params).wellFormed = true := by decide

/-! ### Decoding: words written out from 30_encoding.md R70 to R74 -/

/-- `OP` 0x01 and nothing else. -/
theorem test_decode_ctmenc : decode 0b00000001000000000000000000000000#32 = .ok .ctmenc := rfl
/-- `OP` 0x02. -/
theorem test_decode_ctmdec : decode 0b00000010000000000000000000000000#32 = .ok .ctmdec := rfl
/-- `OP` 0x10, `SHAPE` 3, `ARG` with `SZ` (bit 16) and not `HALF`, `ID` (bit 8). -/
theorem test_decode_lutenc_s10 :
    decode 0b00010000001100010000000100000000#32 = .ok (.lutencS10 .h1024 .lo true) := rfl
/-- `OP` 0x10, `SHAPE` 6, `W` (bit 16). -/
theorem test_decode_lutenc_dp : decode 0b00010000011000010000000000000000#32 = .ok (.lutencDp .w14 false) := rfl
/-- `OP` 0x10, `SHAPE` 5, `ID`. -/
theorem test_decode_lutenc_mono16 :
    decode 0b00010000010100000000000100000000#32 = .ok (.lutencMono16 true) := rfl
/-- `OP` 0x11, `SHAPE` 3, `HALF` (bit 17) and not `SZ`. -/
theorem test_decode_lutdec_s10 : decode 0b00010001001100100000000000000000#32 = .ok (.lutdecS10 .h512 .hi) := rfl
/-- `OP` 0x11, `SHAPE` 4. -/
theorem test_decode_lutdec_ms124 : decode 0b00010001010000000000000000000000#32 = .ok .lutdecMs124 := rfl
/-- `OP` 0x20 and 0x21. -/
theorem test_decode_toposel : decode 0b00100000000000000000000000000000#32 = .ok .toposel := rfl
theorem test_decode_lutcmp : decode 0b00100001000000000000000000000000#32 = .ok .lutcmp := rfl
/-- 95_test_vectors.md V6 and V7a: the listing of each LUTENC word. -/
theorem test_decode_words :
    [0x10000100, 0x10100000, 0x10200100, 0x10300100, 0x10330100, 0x10400100, 0x10600100, 0x11610000].map
        (fun w => decodeTableWord 32 w) =
      [some (.lutencL8 true), some (.lutencI10p6 false), some (.lutencP10 true), some (.lutencS10 .h512 .lo true),
        some (.lutencS10 .h1024 .hi true), some (.lutencMs124 true), some (.lutencDp .w10 true),
        some (.lutdecDp .w14)] := by decide

/-- R75: one word for each failing test, and the first one wins: 0x00000001 has also no `OP`. -/
theorem test_witness_DecodeNamesTheFirstFailingTest :
    decode 0x00000001#32 = .error .reservedBits ∧ decode 0x01008000#32 = .error .reservedBits ∧
      decode 0x00000000#32 = .error .unknownOp ∧ decode 0x12000100#32 = .error .unknownOp ∧
      decode 0x01010000#32 = .error .operandOnPlainOp ∧ decode 0x21800100#32 = .error .operandOnPlainOp ∧
      decode 0x20000100#32 = .error .identOnNonEncode ∧ decode 0x11700100#32 = .error .identOnNonEncode ∧
      decode 0x10700000#32 = .error .shapeOrArg ∧ decode 0x10340100#32 = .error .shapeOrArg ∧
      decode 0x11620000#32 = .error .shapeOrArg ∧ decode 0x10010000#32 = .error .shapeOrArg ∧
      decode 0x10330100#32 = .ok (.lutencS10 .h1024 .hi true) := by
  refine ⟨?_, ?_, ?_, ?_, ?_, ?_, ?_, ?_, ?_, ?_, ?_, ?_, ?_⟩ <;> rfl

theorem test_witness_WordsWithoutARowAreIllegal (i : Instr) : (rowOf i).selects 0x02000001 = false := by
  cases i <;> simp [rowOf, OpcodeRow.selects]

/-- R78, R79. -/
theorem test_witness_ListingSpellsEveryInstruction :
    assemble "LUTID.S10.512.LO" = some (.lutencS10 .h512 .lo true) ∧ assemble "LUTENC.MONO16.ID" = some (.lutencMono16 true) ∧
      assemble "LUTENC.S10.512" = none ∧ assemble "LUTID.S10" = none := by decide

/-! ### The host's moves -/

/-- 95_test_vectors.md V5: the move that writes 0x01000000 to `CMD` runs CTMENC; on tag 0 `STATUS` is 0x1004. -/
theorem test_step_runs_command :
    (stepped ((tagged 0 0).withFetchWord 32 0x01000000)).map (fun t => (t.readRegIndex 0, t.readRegIndex 1)) =
      some (0x01000000, 0x1004) := by decide

theorem test_witness_StepRunsTheDecodedCommand :
    decode 0x21000000#32 = .ok .lutcmp ∧
      ({ State.reset with pending := [.writeReg 0 0x21000000, .readReg 1] } : State).pending =
        .writeReg 0x00 0x21000000 :: [.readReg 1] ∧
      ({ State.reset with pending := [.busWrite 0 [0, 0, 0, 0x21]] } : State).pending =
        .busWrite 0 (wordToBytes 0x21000000) :: [] := by decide

theorem test_witness_StepRunsTheDecodedCommand_other :
    (∀ i, decode 0x21000100 ≠ .ok i) ∧ State.reset.pending = [] ∧
      (stepped { State.reset with pending := [.writeReg 0x04 0x13, .readReg 0x04] }).map
        (fun t => (t.readRegIndex 0x04, t.pending)) = some (3, [.readReg 0x04]) ∧
      (stepped { State.reset with pending := [.writeReg 0 0x21000100] }).map (fun t => (t.cmd, t.status)) =
        some (0x21000100, 0x2005) :=
  ⟨fun i h => absurd h (by rw [show decode 0x21000100 = .error .identOnNonEncode from rfl]; nofun), rfl, by decide,
    by decide⟩

/-- 10_state.md R38: writing one word of `M[0]` changes that half only. -/
theorem test_matrix_halves :
    (stepped { tagged 0 0 with m := Nine.fill 0x1111111122222222, pending := [.writeReg 0x21 0xFFFFFFFE] }).map
      (fun t => (t.m.get 0, t.m.get 1)) = some (0xFFFFFFFE22222222, 0x1111111122222222) := by decide

theorem test_witness_RegisterWriteReadsBackItsWidth :
    regWritable 0x05 = 0x7F ∧ regWritable 0x01 = 0 ∧ regWritable 0x15 = 0 ∧ ¬regListed 0x16 ∧ ¬regListed 0x53 ∧
      regListed 0x52 := by
  refine ⟨rfl, rfl, rfl, ?_, ?_, ?_⟩ <;> unfold regListed <;> omega

theorem test_witness_BufferWriteReadsBack :
    262144 < State.reset.params.clutCap ∧ State.reset.params.clutCap ≤ 262145 ∧
      2047 < State.reset.params.hlutCap ∧ State.reset.params.hlutCap ≤ 2048 := by decide

/-- 20_memory.md R52, R53: bits [7:0] at the lowest address; a half word is refused. -/
theorem test_bus_moves :
    (stepped { tagged 5 0 with pending := [.busRead 0x10 4] }).map (fun t => t.readLog) =
        some [.bytes [5, 0, 0, 0]] ∧
      (stepped { tagged 0 0 with pending := [.busWrite 0x18 [0x01, 0x02, 0, 0x80]] }).map (fun t => t.deglen) =
        some 0x80000201 ∧
      step { tagged 0 0 with pending := [.busRead 0x10 2] } = .refused (.nonWordBusAccess 0x10 2) := by
  refine ⟨by decide, by decide, rfl⟩

theorem test_witness_BusMovesAreAlignedWordMoves :
    ¬(4 = 4 ∧ 0x12 % 4 = 0) ∧ ¬(2 = 4 ∧ 0x10 % 4 = 0) ∧ ¬(([0, 0, 0] : List Byte).length = 4 ∧ 0 % 4 = 0) := by
  decide

/-! ### Reset and invariants -/

theorem test_witness_ResetReadsZeroEverywhere :
    262144 < Params.reference.clutCap ∧ 2047 < Params.reference.hlutCap := by decide

theorem test_witness_ResetMeetsTheInvariant : noReadback.wellFormed = true := by decide

/-- A state that meets the invariant and is not the reset one, with a command that changes the state. -/
theorem test_witness_StepKeepsTheInvariant :
    Inv { tagged 6 0x22 with topo := 0x864, prec := 0, lutfmt := 0x82, status := 0x1004, gammaMode := 1,
                             pending := [commandMove .ctmenc] } ∧
      (stepped { tagged 6 0x22 with pending := [commandMove .ctmenc] }).isSome = true :=
  ⟨⟨by decide, by decide, by decide, by decide, by decide, by decide, by decide, by decide, by decide⟩,
    by decide +kernel⟩

/-- The mode words that the invariant rules out: CGM_MODE without T_CGM, a gamma mode of another table, an output CSC
without its bit. -/
theorem test_modesLegal_refuses :
    modesLegal 0 0 0 0 = true ∧ modesLegal 0x864 1 0 1 = false ∧ modesLegal 0x864 3 0 0 = false ∧
      modesLegal 0x1E6 0x40000003 0x80000000 0 = false ∧ modesLegal 0x1E6 0x40000003 0xC0000000 0 = true := by decide

theorem test_witness_StepKeepsLaunchDataAndStickyBits :
    (stepped { tagged 0 0 with status := 0x1004, pending := [.writeReg 0 0] }).map (fun t => t.status) =
      some 0x3005 := by decide

/-! ### Every operation -/

/-- 95_test_vectors.md V9 row 1 (41_lut_transcoder.md R133): `CLEN0` 257 under LUTENC.L8. -/
theorem test_size_mismatch :
    (after (.lutencL8 false) (sized 257)).map (fun t => (t.status, t.errExpected, t.errActual, t.hlen)) =
      some (0x0402, 256, 257, 0) := by decide

/-- The fault of `test_size_mismatch` ends with code 2. -/
theorem test_witness_OutcomesOtherThanOkLeaveResultsWhole :
    ∃ t, exec (.lutencL8 false) (sized 257) = .next t ∧ EndsWith (sized 257) t 2 ∧ (2 : Nat) ≠ 0 :=
  ⟨_, rfl, EndsWith.of_raise (f := .sizeMismatch _ _) rfl, by decide⟩

theorem test_witness_OperationsIgnoreEarlierOutcomes : (after .lutcmp State.reset).isSome = true := by decide

theorem test_witness_OperationsWriteOnlyTheirTable :
    (after (.lutencMono16 true) State.reset).isSome = true ∧ (after .lutdecL8 (holding [] 256)).isSome = true := by
  decide +kernel

theorem test_witness_LutOperationsIgnoreTheProfile :
    (Instr.lutcmp ≠ .ctmenc ∧ Instr.lutcmp ≠ .ctmdec ∧ Instr.lutcmp ≠ .toposel) ∧
      (after .lutcmp State.reset).isSome = true := by decide

theorem test_witness_EncodeNeverReadsHardwareState :
    Params.reference.wellFormed = true ∧
      (∃ t, EndsWith State.reset t 0 ∧ exec (lutencOf true .mono16) State.reset = .next t) ∧
      ∃ t, EndsWith (holding [] 33) t 0 ∧ exec (lutdecOf .mono16) (holding [] 33) = .next t :=
  ⟨by decide, ⟨_, EndsWith.of_finish (code := codeOk) (by decide) rfl, rfl⟩,
    ⟨_, EndsWith.of_finish (code := codeOk) (by decide) rfl, rfl⟩⟩

/-! ### The codec -/

/-- 95_test_vectors.md V4, tag 5. -/
theorem test_ctmenc_fp :
    (after .ctmenc { tagged 5 0 with m := matrixV4 }).map (fun t => (t.ec, t.sat, t.status)) =
      some (⟨0x3918, 0x9AA8, 0x6D58, 0x6FF8, 0xFC00, 0x1FF8, 0xEFF8, 0x0DC0, 0x3000⟩, 0x00680048, 0) := by
  decide +kernel

/-- 95_test_vectors.md V3: one compressed coefficient, the post offsets and `MAGSAT`. -/
theorem test_ctmenc_limited :
    (after .ctmenc { tagged 5 0x20 with m := Nine.fill 0x0000000400000000 }).map
      (fun t => (t.ec.get 8, t.post, t.pre, t.sat)) =
      some (0x6DC0, Three.fill 0x101, Three.fill 0, 0x000001FF) := by decide +kernel

/-- 95_test_vectors.md V4, tag 2. -/
theorem test_ctmdec_fix :
    (after .ctmdec { tagged 2 0 with ec := ⟨0x0123, 0x8555, 0x3555, 0x7FFF, 0x9800, 0x0800, 0xFFFF, 0x0DBE, 0⟩ }).map
      (fun t => t.m) =
      some ⟨0x0000000012300000, 0xFFFFFFFFAAB00000, 0x0000000355500000, 0x00000007FFF00000, 0xFFFFFFFE80000000,
        0x0000000080000000, 0xFFFFFFF800100000, 0x00000000DBE00000, 0⟩ := by decide +kernel

/-- 95_test_vectors.md V1: a negative zero under `signmag`, and V5: a reserved code leaves `M` whole. -/
theorem test_ctmdec_fp :
    (after .ctmdec { tagged 4 0 with
      ec := Nine.fill 0xB000, params := { Params.reference with ctmInRepr := .signmag } }).map (fun t => t.m.get 3) =
        some 0x8000000000000000 ∧
      (after .ctmdec { tagged 4 0 with
        ec := ⟨0x7800, 0x7800, 0x7800, 0x7800, 0x7800, 0x7800, 0x7800, 0x7800, 0x4000⟩, m := Nine.fill 5 }).map
        (fun t => (t.m, t.status)) = some (Nine.fill 5, 0x4006) := by decide +kernel

theorem test_witness_CtmencFpSm :
    ∃ p, (tagged 5 0x20).params.profiles[(tagged 5 0x20).gen.toNat]? = some p ∧ p.cfmt = .fpSm ∧ p.limCsc = true ∧
      (tagged 5 0x20).cfg.getLsbD 5 = true := ⟨_, rfl, rfl, rfl, rfl⟩

theorem test_witness_CtmencFixS312 :
    ∃ p, (tagged 2 0).params.profiles[(tagged 2 0).gen.toNat]? = some p ∧ p.cfmt = .fixS312 ∧ p.readback = true :=
  ⟨_, rfl, rfl, rfl⟩

theorem test_witness_CodecWithoutAFormat :
    (tagged 0 0).NoFormat ∧ (tagged 8 0).NoFormat ∧ (tagged 15 0).NoFormat ∧
      (∃ p, ({ tagged 0 0 with params := noReadback } : State).params.profiles[0]? = some p ∧ p.readback = false) ∧
      ∃ t, exec .ctmdec (tagged 0 0) = .next t ∧ EndsWith (tagged 0 0) t 1 := by
  refine ⟨fun p h => ?_, fun p h => ?_, fun p h => ?_, ⟨_, rfl, rfl⟩,
    ⟨_, rfl, EndsWith.of_finish (code := codeUnsupported) (by decide) rfl⟩⟩
  · cases h
    rfl
  · cases h
  · cases h

/-- The nine codes just inside and just outside the reserved ones. -/
theorem test_witness_CtmdecFpSm :
    (∃ p, (tagged 4 0).params.profiles[(tagged 4 0).gen.toNat]? = some p ∧ p.cfmt = .fpSm ∧ p.readback = true) ∧
      (∃ i, ((Nine.fill 0x5FFF : Nine (BitVec 16)).get i).toNat / 2 ^ 12 % 8 = 5) ∧
      (∃ i, ((Nine.fill 0xC000 : Nine (BitVec 16)).get i).toNat / 2 ^ 12 % 8 = 4) ∧
      ∀ i, ((⟨0x3FFF, 0x6000, 0xB000, 0xEFFF, 0, 0x7000, 0x1000, 0x2000, 0xFFFF⟩ : Nine (BitVec 16)).get i).toNat /
          2 ^ 12 % 8 ≠ 4 ∧
        ((⟨0x3FFF, 0x6000, 0xB000, 0xEFFF, 0, 0x7000, 0x1000, 0x2000, 0xFFFF⟩ : Nine (BitVec 16)).get i).toNat /
          2 ^ 12 % 8 ≠ 5 :=
  ⟨⟨_, rfl, rfl, rfl⟩, ⟨0, by decide⟩, ⟨8, by decide⟩, by decide⟩

theorem test_witness_CtmdecFixS312 :
    ∃ p, (tagged 2 0).params.profiles[2]? = some p ∧ p.cfmt = .fixS312 ∧ p.readback = true := ⟨_, rfl, rfl, rfl⟩

/-- Under `signmag` too, with a negative zero: vector V1 row 0x8000000000000000. -/
theorem test_witness_MatrixRoundTripWithinOneUlp_signmag :
    (after .ctmenc { tagged 4 0 with m := Nine.fill 0x8000000000000000,
                                     params := { Params.reference with ctmInRepr := .signmag } }).bind
      (fun t => (after .ctmdec t).map (fun u => u.m.get 8)) = some 0x8000000000000000 := by decide +kernel

theorem test_witness_MatrixRoundTripWithinOneUlp :
    ∃ p, (tagged 7 0).params.profiles[(tagged 7 0).gen.toNat]? = some p ∧ p.cfmt ≠ .none ∧ p.readback = true ∧
      p.cfmt = .fpSm ∧ BandRow.rounded ⟨0x80000000, 0x100000000, 9, 0⟩ 0xFFBFFFFF ≠ 512 ∧
      BandRow.rounded ⟨0x80000000, 0x100000000, 9, 0⟩ 0xFFC00000 = 512 ∧
      0x7FFF7FFFF + 2 ^ 19 ≤ 8 * 2 ^ 32 - 1 := ⟨_, rfl, by decide, rfl, rfl, by decide, by decide, by decide⟩

/-- 40_codec.md R101 and R102: the largest FP_SM word. -/
theorem test_witness_QuantisationIsIdempotent :
    decFp (encFp true (10 * 2 ^ 32)) = some (true, 0x3FE000000) := by decide

theorem test_witness_IdentityMatrixConstants :
    ∃ p, (tagged 5 0x02).params.profiles[5]? = some p ∧ ¬(p.limCsc = true ∧ (tagged 5 0x02).cfg.getLsbD 5 = true) ∧
      p.cfmt = .fpSm := ⟨_, rfl, by decide, rfl⟩

theorem test_witness_IdentityMatrixConstants_fix :
    ∃ p, (tagged 2 0).params.profiles[2]? = some p ∧ ¬(p.limCsc = true ∧ (tagged 2 0).cfg.getLsbD 5 = true) ∧
      p.cfmt = .fixS312 := ⟨_, rfl, by decide, rfl⟩

/-- 40_codec.md R113: a magnitude one below half an ULP. -/
theorem test_witness_SignIsCopiedWhateverTheMagnitude :
    ∃ p, (tagged 4 0).params.profiles[4]? = some p ∧ p.cfmt = .fpSm ∧
      encodedMagnitude (tagged 4 0) p 0xFFFFFFFFFFF80001 < 2 ^ 19 ∧
      ∃ t, exec .ctmenc (tagged 4 0) = .next t ∧ EndsWith (tagged 4 0) t 0 :=
  ⟨_, rfl, rfl, by decide, _, rfl, EndsWith.of_finish (code := codeOk) (by decide) rfl⟩

/-! ### LUTENC -/

/-- 95_test_vectors.md V6. -/
theorem test_lutenc_l8 :
    (after (.lutencL8 false) (sampled 256)).map (fun t => (t.readHlutWord 0, t.readHlutWord 255, t.hlen, t.hbase)) =
      some (0x0012ABFF, 0x0012ABFF, 256, 0) := by decide +kernel

/-- 95_test_vectors.md V6. -/
theorem test_lutenc_i10p6 :
    (after (.lutencI10p6 false) (sampled 129)).map
      (fun t => (t.readHlutWord 0, t.readHlutWord 1, t.readHlutWord 256, t.readHlutWord 257, t.readHlutWord 258)) =
      some (0x0034CDFF, 0x0012ABFF, 0x1234, 0xABCD, 0xFFFF) := by decide +kernel

/-- 95_test_vectors.md V6. -/
theorem test_lutenc_p10 :
    (after (.lutencP10 false) (sampled 1024)).map (fun t => (t.readHlutWord 1023, t.hlen)) =
      some (0x048ABFFF, 1024) := by decide +kernel

/-- 95_test_vectors.md V8: N = 1025 into 512; the last word comes from the last entry. -/
theorem test_lutenc_s10 :
    (after (.lutencS10 .h512 .hi false)
      { sized 1025 with clut0 := [(2, sample), (513, ⟨0, 0, 0xFFFF⟩), (1024, ⟨0xFFFF, 0, 0⟩)] }).map
      (fun t => (t.readHlutWord 1, t.readHlutWord 256, t.readHlutWord 511, t.hlen, t.hbase)) =
      some (0x048ABFFF, 0x3FF, 0x3FF00000, 512, 512) := by decide +kernel

/-- 95_test_vectors.md V7a, the high half of 1024 with `ID`. -/
theorem test_lutenc_s10_ident :
    (after (.lutencS10 .h1024 .hi true) State.reset).map
      (fun t => (t.readHlutWord 1, t.readHlutWord 512, t.readHlutWord 1023, t.hlen, t.hbase)) =
      some (0x00100401, 0x20080200, 0x3FFFFFFF, 1024, 1024) := by decide +kernel

/-- 95_test_vectors.md V7b: words of each segment. -/
theorem test_lutenc_ms124 :
    (after (.lutencMs124 true) State.reset).map
      (fun t => (t.readHlutWord 16, t.readHlutWord 20, t.readHlutWord 529, t.readHlutWord 533, t.readHlutWord 1041,
        t.readHlutWord 1044, t.hlen)) =
      some (0x01004010, 0x0300C030, 0x00701C07, 0x00300C03, 0x3FBFEFFB, 0xFFFF, 1045) := by decide +kernel

/-- 95_test_vectors.md V7a. -/
theorem test_lutenc_mono16 :
    (after (.lutencMono16 true) State.reset).map
      (fun t => (t.readHlutWord 1, t.readHlutWord 16, t.readHlutWord 32, t.hlen)) =
      some (0x07FF, 0x7FFF, 0xFFFF, 33) := by decide +kernel

/-- 95_test_vectors.md V6, both widths. -/
theorem test_lutenc_dp :
    (after (.lutencDp .w10 false) (sampled 257)).map (fun t => (t.readHlutWord 512, t.readHlutWord 513, t.hlen)) =
        some (0x02AF03FF, 0x48, 514) ∧
      (after (.lutencDp .w14 false) (sampled 65)).map (fun t => (t.readHlutWord 0, t.readHlutWord 1, t.hlen)) =
        some (0x2AF33FFF, 0x048D, 130) := by decide +kernel

/-- The reference buffers hold the table of every shape. -/
theorem test_witness_fits (sh : LutShape) (n : Nat) : DecodeFits (sized n) sh ∧ EncodeFits (sized n) sh := by
  have h : (tableColumns TableLens.reference sh).2.2 ≤ 2048 ∧ (tableColumns TableLens.reference sh).2.1 ≤ 262145 := by
    rcases sh with _ | _ | _ | ⟨⟨⟩, ⟨⟩⟩ | _ | _ | ⟨⟨⟩⟩ <;> decide
  exact ⟨h, h.1⟩

theorem test_witness_LutencL8 :
    (sized 256).params.wellFormed = true ∧ SourceAccepted (sized 256) .l8 ∧ ¬SourceAccepted (sized 257) .l8 ∧
      ¬SourceAccepted (sized 255) .l8 := by
  refine ⟨by decide, ⟨by decide, by decide⟩, fun h => absurd h.2 (by decide), fun h => absurd h.2 (by decide)⟩

theorem test_witness_LutencI10p6 : SourceAccepted (sized 129) .i10p6 ∧ ¬SourceAccepted (sized 128) .i10p6 :=
  ⟨⟨by decide, by decide⟩, fun h => absurd h.2 (by decide)⟩

theorem test_witness_LutencP10 : SourceAccepted (sized 1024) .p10 ∧ ¬SourceAccepted (sized 1025) .p10 :=
  ⟨⟨by decide, by decide⟩, fun h => absurd h.2 (by decide)⟩

theorem test_witness_LutencS10 :
    SourceAccepted (sized 1) (.s10 .h512 .lo) ∧ SourceAccepted (sized 262145) (.s10 .h1024 .hi) ∧
      ¬SourceAccepted (sized 0) (.s10 .h512 .lo) ∧ ¬SourceAccepted (sized 262146) (.s10 .h1024 .hi) :=
  ⟨⟨by decide, by decide⟩, ⟨by decide, by decide⟩, fun h => absurd h.2 (by decide), fun h => absurd h.1 (by decide)⟩

theorem test_witness_LutencMs124 : SourceAccepted (sized 262145) .ms124 ∧ ¬SourceAccepted (sized 522) .ms124 :=
  ⟨⟨by decide, by decide⟩, fun h => absurd h.2 (by decide)⟩

theorem test_witness_LutencMono16 : SourceAccepted (sized 33) .mono16 ∧ ¬SourceAccepted (sized 32) .mono16 :=
  ⟨⟨by decide, by decide⟩, fun h => absurd h.2 (by decide)⟩

theorem test_witness_LutencDp :
    SourceAccepted (sized 257) (.dp .w10) ∧ SourceAccepted (sized 65) (.dp .w14) ∧
      ¬SourceAccepted (sized 257) (.dp .w14) ∧ ¬SourceAccepted (sized 65) (.dp .w10) :=
  ⟨⟨by decide, by decide⟩, ⟨by decide, by decide⟩, fun h => absurd h.2 (by decide), fun h => absurd h.2 (by decide)⟩

/-! ### LUTDEC -/

/-- 41_lut_transcoder.md R138's example, with bits [31:24] set: they are ignored. -/
theorem test_lutdec_l8 :
    (after .lutdecL8 (holding [(0, 0xFF12ABFF)] 256)).map (fun t => (t.readEntry .clut0 0, t.clen0)) =
      some (⟨0x1200, 0xAB00, 0xFF00⟩, 256) := by decide +kernel

/-- 41_lut_transcoder.md R141's example, and the three max words. -/
theorem test_lutdec_i10p6 :
    (after .lutdecI10p6 (holding [(6, 0x0034CDFF), (7, 0x0012ABFF), (256, 1), (257, 2), (258, 3)] 259)).map
      (fun t => (t.readEntry .clut0 3, t.readEntry .clut0 128)) = some (sample, ⟨1, 2, 3⟩) := by decide +kernel

/-- 41_lut_transcoder.md R144's example. -/
theorem test_lutdec_p10 :
    (after .lutdecP10 (holding [(1023, 0xC48ABFFF)] 1024)).map (fun t => t.readEntry .clut0 1023) =
      some ⟨0x1200, 0xABC0, 0xFFC0⟩ := by decide +kernel

/-- 41_lut_transcoder.md R145's example. -/
theorem test_lutdec_s10 :
    (after (.lutdecS10 .h512 .hi) (holding [(0, 0x3FFFFFFF)] 512)).map (fun t => (t.readEntry .clut0 0, t.clen0)) =
      some (⟨0xFFC0, 0xFFC0, 0xFFC0⟩, 512) := by decide +kernel

/-- 41_lut_transcoder.md R149's example, at the last pair, and the max entry. -/
theorem test_lutdec_ms124 :
    (after .lutdecMs124 (holding [(1040, 0x340343F0), (1041, 0x048ABFFF), (1042, 7), (1043, 8), (1044, 9)] 1045)).map
      (fun t => (t.readEntry .clut0 520, t.readEntry .clut0 521, t.clen0)) = some (sample, ⟨7, 8, 9⟩, 522) := by
  decide +kernel

/-- 41_lut_transcoder.md R152's example. -/
theorem test_lutdec_mono16 :
    (after .lutdecMono16 (holding [(32, 0xFFFFABCD)] 33)).map (fun t => (t.readEntry .clut0 32, t.clen0)) =
      some (⟨0xABCD, 0xABCD, 0xABCD⟩, 33) := by decide +kernel

/-- 41_lut_transcoder.md R155's example, and V6 for the width 10. -/
theorem test_lutdec_dp :
    (after (.lutdecDp .w14) (holding [(0, 0x2AF33FFF), (1, 0x048D)] 130)).map (fun t => t.readEntry .clut0 0) =
        some ⟨0x1234, 0xABCC, 0xFFFC⟩ ∧
      (after (.lutdecDp .w10) (holding [(512, 0x02AF03FF), (513, 0x48)] 514)).map (fun t => t.readEntry .clut0 256) =
        some ⟨0x1200, 0xABC0, 0xFFC0⟩ := by decide +kernel

/-- A length each LUTDEC accepts and one it refuses, and the word counts of R130. The reference buffers hold every table
(`test_witness_fits`). -/
theorem test_witness_Lutdec :
    (holding [] 256).params.wellFormed = true ∧ (holding [] 256).hlen.toNat = 256 ∧ (holding [] 259).hlen.toNat = 259 ∧
      (holding [] 1024).hlen.toNat = 1024 ∧ (holding [] 512).hlen.toNat = 512 ∧ (holding [] 1045).hlen.toNat = 1045 ∧
      (holding [] 33).hlen.toNat = 33 ∧ (holding [] 514).hlen.toNat = 2 * ((holding [] 514).columns (.dp .w10)).1 ∧
      (holding [] 130).hlen.toNat = 2 * ((holding [] 130).columns (.dp .w14)).1 ∧
      ∀ sh ∈ LutShape.all, (holding [] 0).hlen.toNat ≠ ((holding [] 0).columns sh).2.2 := by decide

/-- Each instruction and length of the statement on LUTDEC.P10 and LUTDEC.S10. -/
theorem test_witness_LutdecP10AndS10 :
    (holding [] 1024).hlen.toNat = State.reset.params.tables.p10 ∧ DecodeFits (holding [] 1024) .p10 ∧
      (holding [] 512).hlen.toNat = State.reset.params.tables.s10Sz0 ∧ DecodeFits (holding [] 512) (.s10 .h512 .hi) ∧
      (holding [] 1024).hlen.toNat = State.reset.params.tables.s10Sz1 ∧
      DecodeFits (holding [] 1024) (.s10 .h1024 .lo) ∧ (holding [] 1023).hlen.toNat ≠ State.reset.params.tables.p10 :=
  ⟨by decide, ⟨by decide, by decide⟩, by decide, ⟨by decide, by decide⟩, by decide, ⟨by decide, by decide⟩, by decide⟩

/-! ### The laws of the transcoder -/

theorem test_witness_EncodedLengthIsFixed :
    (∃ t, exec (lutencOf true (.s10 .h512 .hi)) State.reset = .next t ∧ EndsWith State.reset t 0) ∧
      ∃ t, exec (lutencOf false .l8) (sized 257) = .next t ∧ ¬EndsWith (sized 257) t 0 :=
  ⟨⟨_, rfl, EndsWith.of_finish (code := codeOk) (by decide) rfl⟩,
    ⟨_, rfl, fun h => absurd (h.unique (EndsWith.of_raise (f := .sizeMismatch _ _) rfl)) (by decide)⟩⟩

theorem test_witness_DownsamplingLaws : 2 ≤ 512 ∧ 1 ≤ 1 ∧ 0 ≤ 511 ∧ 511 < 512 := by decide

theorem test_witness_EncodeThenDecodeLoss :
    Params.reference.wellFormed = true ∧ SourceAccepted (sized 300) (.s10 .h512 .hi) ∧
      DecodeFits (sized 300) (.s10 .h512 .hi) ∧ SourceAccepted (sized 33) .mono16 ∧ DecodeFits (sized 33) .mono16 ∧
      LutShape.mono16 ≠ .s10 .h512 .hi :=
  ⟨by decide, ⟨by decide, by decide⟩, ⟨by decide, by decide⟩, ⟨by decide, by decide⟩, ⟨by decide, by decide⟩,
    by decide⟩

theorem test_witness_DecodeThenEncodeReproduces :
    (holding [] 1045).params.wellFormed = true ∧
      (holding [] 1045).hlen.toNat = ((holding [] 1045).columns .ms124).2.2 ∧ DecodeFits (holding [] 1045) .ms124 ∧
      (holding [] 259).hlen.toNat = ((holding [] 259).columns .i10p6).2.2 ∧ DecodeFits (holding [] 259) .i10p6 ∧
      LutShape.i10p6 ≠ .ms124 :=
  ⟨by decide, by decide, ⟨by decide, by decide⟩, by decide, ⟨by decide, by decide⟩, by decide⟩

/-! ### Table lengths other than the default, and capacities (00_scope.md R9, 20_memory.md R57) -/

/-- `P10_LEN` and `I10P6_LEN` 3: the source length is the parameter, and the last entry of I10P6 is the third one. -/
theorem test_table_lengths :
    (after (.lutencP10 false) { sized 3 with params := small, clut0 := [(2, sample)] }).map
        (fun t => (t.status, t.hlen, t.readHlutWord 2)) = some (0, 3, 0x048ABFFF) ∧
      (after (.lutencP10 false) { sized 1024 with params := { small with clutCap := 1024 } }).map
        (fun t => (t.status, t.errExpected, t.errActual)) = some (0x0402, 3, 1024) ∧
      (after (.lutencI10p6 false) { sized 3 with params := small, clut0 := [(2, sample)] }).map
        (fun t => (t.hlen, t.readHlutWord 4, t.readHlutWord 6)) = some (7, 0x1234, 0xFFFF) ∧
      (after .lutdecP10 { holding [(2, 0x048ABFFF)] 3 with params := small }).map
        (fun t => (t.status, t.clen0, t.readEntry .clut0 2)) = some (0, 3, ⟨0x1200, 0xABC0, 0xFFC0⟩) := by decide +kernel

/-- One below a shape's words in `HLUT`, or below its entries in `CLUT0`, is a SIZE_MISMATCH. -/
theorem test_capacity_faults :
    (after (.lutencMono16 true) { State.reset with params := { small with hlutCap := 32 } }).map
        (fun t => (t.status, t.hlen)) = some (0x0402, 0) ∧
      (after .lutdecMono16 { holding [] 33 with params := small }).map (fun t => (t.status, t.clen0)) =
        some (0x0402, 0) ∧
      (after .lutdecMono16 { holding [] 33 with params := { small with clutCap := 33 } }).map
        (fun t => (t.status, t.clen0)) = some (0, 33) := by decide +kernel

theorem test_witness_NoOperationGoesBeyondACapacity :
    small.wellFormed = true ∧ ¬EncodeFits { State.reset with params := small } (.dp .w14) ∧
      EncodeFits { State.reset with params := small } .mono16 ∧
      ¬DecodeFits { holding [] 33 with params := small } .mono16 ∧
      DecodeFits { holding [] 7 with params := small } .i10p6 ∧
      small.clutCap < ({ sized 33 with params := small } : State).clen0.toNat ∧
      (∃ t, exec (lutencOf true .mono16) { State.reset with params := small } = .next t ∧
        EndsWith { State.reset with params := small } t 0) ∧
      ∃ t, exec (lutdecOf .p10) { holding [] 3 with params := small } = .next t ∧
        EndsWith { holding [] 3 with params := small } t 0 :=
  ⟨by decide, fun h => absurd h (by unfold EncodeFits; decide), by unfold EncodeFits; decide,
    fun h => absurd h.2 (by decide), ⟨by decide, by decide⟩, by decide,
    ⟨_, rfl, EndsWith.of_finish (code := codeOk) (by decide) rfl⟩,
    ⟨_, rfl, EndsWith.of_finish (code := codeOk) (by decide) rfl⟩⟩

/-! ### The Topology Selector -/

/-- 42_topology.md R204's example, on tag 5 and on tag 4. -/
theorem test_toposel :
    (after .toposel { tagged 5 0x22 with gamlen := 1024 }).map
        (fun t => (t.topo, t.gammaMode, t.cscMode, t.prec, t.lutfmt)) = some (0x864, 1, 0, 0, 0x10082) ∧
      (after .toposel { tagged 4 0x22 with gamlen := 1024 }).map (fun t => (t.topo, t.cscMode, t.prec)) =
        some (0x123, 2, 10) := by decide

/-- 95_test_vectors.md V10: legacy + Y + L + X on the last tag; C8 alone. -/
theorem test_toposel_special :
    (after .toposel { tagged 7 0x6A with gamlen := 256 }).map (fun t => (t.topo, t.prec, t.lutfmt)) =
        some (0x421, 8, 0x80) ∧
      (after .toposel (tagged 5 0x40)).map (fun t => (t.status, t.topo)) = some (0x0803, 0) := by decide

theorem test_witness_LegacyOnEveryTag :
    (∃ p, (tagged 7 0x6A).params.profiles[(tagged 7 0x6A).gen.toNat]? = some p) ∧ (tagged 7 0x6A).cfg.toNat / 8 % 4 ≠ 3 ∧
      (tagged 7 0x6A).cfg.getLsbD 1 = true ∧ ((256 : Word).toNat = 256) ∧ (tagged 7 0x6A).cfg.getLsbD 0 = false ∧
      (tagged 7 0x6A).cfg.getLsbD 2 = false := ⟨⟨_, rfl⟩, by decide⟩

theorem test_witness_ToposelFaults :
    (tagged 8 0).params.profiles[(tagged 8 0).gen.toNat]? = none ∧ (tagged 0 0x1A).cfg.toNat / 8 % 4 = 3 ∧
      (∃ p, (tagged 7 0x42).params.profiles[(tagged 7 0x42).gen.toNat]? = some p) ∧
      (tagged 7 0x42).cfg.toNat / 8 % 4 ≠ 3 ∧ (tagged 7 0x42).cfg.getLsbD 6 = true ∧
      (tagged 7 0x42).gamlen.toNat ≠ 256 := ⟨rfl, by decide, ⟨_, rfl⟩, by decide, by decide, by decide⟩

/-- `CFG` = 0 reaches the family's mapping on every tag of the reference table, and so does every request with a
gamma LUT that is not the legacy one. -/
theorem test_witness_dispatched (g : Fin 8) (c : Fin 24) :
    Dispatched (tagged (BitVec.ofNat 4 g) (BitVec.ofNat 7 c)) Profile.reference[g.val] := by
  refine ⟨?_, ?_, ?_, ?_⟩
  · revert g c
    decide
  · revert g c
    decide
  · rintro ⟨-, h, -⟩
    exact absurd h (by simp [tagged, State.reset, State.resetWith])
  · revert g c
    decide

theorem test_witness_ToposelFamilies :
    Profile.reference.map (fun p => p.family) = [.i9xx, .i965, .chv, .ilk, .ivb, .ivb, .glk, .icl] := rfl

theorem test_witness_ToposelResultInvariants :
    Params.reference.wellFormed = true ∧ (∃ p, (tagged 6 0x20).params.profiles[6]? = some p) ∧
      ∃ t, exec .toposel (tagged 6 0x20) = .next t ∧ EndsWith (tagged 6 0x20) t 0 :=
  ⟨by decide, ⟨_, rfl⟩, ⟨_, rfl, EndsWith.of_finish (code := codeOk) (by decide) rfl⟩⟩

theorem test_witness_ToposelIsAFunctionOfItsInputs :
    (sized 256).gen = State.reset.gen ∧ (sized 256).cfg = State.reset.cfg ∧ (sized 256).gamlen = State.reset.gamlen ∧
      (sized 256).params.profiles = State.reset.params.profiles := ⟨rfl, rfl, rfl, rfl⟩

/-- The split topology of 42_topology.md R199: both bytes are valid, 0xA3 and 0x83; without degamma the second is 0. -/
theorem test_witness_ShapeBytesAreCommands :
    (after .toposel { tagged 4 0x03 with gamlen := 1024 }).map
        (fun t => (t.lutfmt.toNat % 2 ^ 8, t.lutfmt.toNat / 2 ^ 8 % 2 ^ 8)) = some (0xA3, 0x83) ∧
      (after .toposel { tagged 4 0x02 with gamlen := 1024 }).map (fun t => t.lutfmt.toNat / 2 ^ 8 % 2 ^ 8) = some 0 := by
  decide

/-! ### The comparator -/

/-- A LUT of one entry in each buffer. -/
def compared (a b : Entry) (prec : BitVec 5) : State :=
  { State.reset with clut0 := [(0, a)], clut1 := [(0, b)], clen0 := 1, clen1 := 1, precIn := prec }

/-- 43_equality.md R233(c): at precision 10 a difference of 63 is equal, one of 100 is not. -/
theorem test_lutcmp_tolerance :
    (after .lutcmp (compared ⟨0x40, 0, 0⟩ ⟨0x7F, 0, 0⟩ 10)).map (fun t => (t.cmpres, t.cmpidx)) = some (1, 0) ∧
      (after .lutcmp { compared ⟨0, 0, 100⟩ ⟨0, 0, 0⟩ 10 with cmpidx := 9 }).map (fun t => (t.cmpres, t.cmpidx)) =
        some (0, 0) := by decide

/-- 43_equality.md R233(a), and R232 above the capacity. -/
theorem test_lutcmp_lengths :
    (after .lutcmp { compared ⟨0, 0, 0⟩ ⟨0, 0, 0⟩ 0 with clen1 := 2 }).map (fun t => (t.cmpres, t.cmpidx, t.status)) =
        some (0, 0xFFFFFFFF, 0) ∧
      (after .lutcmp { compared ⟨0, 0, 0⟩ ⟨0, 0, 0⟩ 0 with clen1 := 262146 }).map
        (fun t => (t.status, t.errExpected, t.errActual)) = some (0x0402, 262145, 262146) := by decide

/-- One witness for each clause: above the capacity, at it with unequal lengths, the first mismatch, and equality with
no entries. -/
theorem test_witness_LutcmpReports :
    State.reset.params.clutCap < (sized 262146).clen0.toNat ∧
      ((sized 262145).clen0.toNat ≤ State.reset.params.clutCap ∧ (sized 262145).clen0 ≠ (sized 262145).clen1) ∧
      ((compared ⟨0, 0, 64⟩ ⟨0, 0, 0⟩ 10).clen0 = (compared ⟨0, 0, 64⟩ ⟨0, 0, 0⟩ 10).clen1 ∧
        ¬(compared ⟨0, 0, 64⟩ ⟨0, 0, 0⟩ 10).EntriesClose 0 ∧ (compared ⟨0, 0, 63⟩ ⟨0, 0, 0⟩ 10).EntriesClose 0) ∧
      State.reset.clen0 = State.reset.clen1 ∧ ∀ i, i < State.reset.clen0.toNat → State.reset.EntriesClose i := by
  refine ⟨by decide, by decide, ⟨rfl, fun h => ?_, ?_⟩, rfl, fun i hi => ?_⟩
  · exact absurd h.2.2 (by unfold ChannelClose; decide)
  · refine ⟨?_, ?_, ?_⟩ <;> unfold ChannelClose <;> decide
  · exact absurd hi (by simp [State.reset, State.resetWith])

theorem test_witness_RoundTripComparesEqual :
    DecodeFits (sized 65) (.dp .w14) ∧ (sized 65).clen0.toNat = ((sized 65).columns (.dp .w14)).1 ∧
      LutShape.dp .w14 ≠ .ms124 ∧ LutShape.dp .w14 ≠ .mono16 ∧
      SourceAccepted
        { sized 65 with
          clen1 := 65, precIn := 14, clut0 := Memory.listed 0 (List.replicate 65 sample),
          clut1 := Memory.listed 0 (List.replicate 65 sample) } (.dp .w14) ∧
      (∀ i : Fin 65,
        ({ sized 65 with
          clen1 := 65, precIn := 14, clut0 := Memory.listed 0 (List.replicate 65 sample),
          clut1 := Memory.listed 0 (List.replicate 65 sample) } : State).readEntry .clut1 i =
        ({ sized 65 with
          clen1 := 65, precIn := 14, clut0 := Memory.listed 0 (List.replicate 65 sample),
          clut1 := Memory.listed 0 (List.replicate 65 sample) } : State).readEntry .clut0 i) ∧
      (14 : BitVec 5).toNat ≤ keptBits (.dp .w14) :=
  ⟨⟨by decide, by decide⟩, by decide, by decide, by decide, ⟨by decide, by decide⟩, by decide +kernel, by decide⟩

end Sys2Proof.Tests
end

section
/-! PROOFS. The state after reset: what a read of a register and of a buffer element gives
(10_state.md R45, 70_reset_and_hazards.md R260), and the obligation O11. -/

namespace Sys2Proof.Machine

@[simp] theorem Memory.lookup_nil {α : Type} (i : Nat) : Memory.lookup ([] : Memory α) i = none := rfl

/-! ### The fields reads of the reset state go through -/

section
variable (p : Params) (power : Nat)

@[simp] theorem State.resetWith_params : (State.resetWith p power).params = p := rfl
@[simp] theorem State.resetWith_powerUp : (State.resetWith p power).powerUp = power := rfl
@[simp] theorem State.resetWith_status : (State.resetWith p power).status = 0 := rfl
@[simp] theorem State.resetWith_sat : (State.resetWith p power).sat = 0 := rfl
@[simp] theorem State.resetWith_m : (State.resetWith p power).m = Nine.fill 0 := rfl
@[simp] theorem State.resetWith_ec : (State.resetWith p power).ec = Nine.fill 0 := rfl
@[simp] theorem State.resetWith_pre : (State.resetWith p power).pre = Three.fill 0 := rfl
@[simp] theorem State.resetWith_post : (State.resetWith p power).post = Three.fill 0 := rfl
@[simp] theorem State.resetWith_hlut : (State.resetWith p power).hlut = [] := rfl

@[simp] theorem State.resetWith_clut (b : ClutId) : (State.resetWith p power).clut b = [] := by
  cases b <;> rfl

/-! ### Reads of the reset state -/

/-- `STATUS` and `SAT` are read through a mask (R28, R30) and the operand files element by element; every other register
is a single zero field. -/
theorem State.getReg_resetWith (r : RegName) : (State.resetWith p power).getReg r = 0 := by
  cases r with
  | status => simp [State.getReg]
  | sat => simp [State.getReg]
  | mLo i => simp [State.getReg]
  | mHi i => simp [State.getReg]
  | ec i => simp [State.getReg]
  | pre k => simp [State.getReg]
  | post k => simp [State.getReg]
  | _ => rfl

/-- An index that names no register reads 0 as well (R46). -/
theorem State.readRegIndex_resetWith (n : Nat) : (State.resetWith p power).readRegIndex n = 0 := by
  unfold State.readRegIndex
  split
  · exact State.getReg_resetWith p power _
  · rfl

theorem State.readEntry_resetWith {n : Nat} (h : n < p.clutCap) (b : ClutId) :
    (State.resetWith p power).readEntry b n = Config.unwrittenEntry power b n := by
  simp [State.readEntry, h]

theorem State.readHlutWord_resetWith {n : Nat} (h : n < p.hlutCap) :
    (State.resetWith p power).readHlutWord n = Config.unwrittenWord power n := by
  simp [State.readHlutWord, h]

end

/-- Settles O11: the reads of `State.resetWith` by the lemmas above; `State.reset` is it at `Params.reference`, whose
fields are R9's defaults. -/
theorem resetReadsZeroEverywhere : Obligations.ResetReadsZeroEverywhere := by
  unfold Obligations.ResetReadsZeroEverywhere
  refine ⟨fun p power n => ⟨?reg, ?launch, ?entry, ?word⟩,
    rfl, rfl, rfl, rfl, rfl, rfl, rfl, rfl, ?coefs, ?offsets, ?defaults⟩
  case reg => exact State.readRegIndex_resetWith p power n
  case launch => exact State.resetWith_params p power
  case entry => exact State.readEntry_resetWith p power
  case word => exact State.readHlutWord_resetWith p power
  case coefs => exact fun i => ⟨Nine.get_fill 0 i, Nine.get_fill 0 i⟩
  case offsets => exact fun k => ⟨Three.get_fill 0 k, Three.get_fill 0 k⟩
  case defaults => rfl

end Sys2Proof.Machine
end

section
/-! PROOFS. What a host write of a register, a command and a host move can do, each said once. -/

namespace Sys2Proof.Machine

/-! ### The instructions, by operation and shape -/

@[simp] theorem exec_lutencOf (ident : Bool) (sh : LutShape) (s : State) :
    exec (lutencOf ident sh) s = encodeLut sh ident s := by
  cases sh <;> rfl

@[simp] theorem exec_lutdecOf (sh : LutShape) (s : State) : exec (lutdecOf sh) s = decodeLut sh s := by
  cases sh <;> rfl

/-- Case analysis on an instruction with one case for LUTENC and one for LUTDEC, whatever the shape (30_encoding.md
R76). -/
theorem Instr.cases_shape {motive : Instr → Prop} (i : Instr) (ctmenc : motive .ctmenc) (ctmdec : motive .ctmdec)
    (lutenc : ∀ ident sh, motive (lutencOf ident sh)) (lutdec : ∀ sh, motive (lutdecOf sh))
    (toposel : motive .toposel) (lutcmp : motive .lutcmp) : motive i := by
  cases i with
  | ctmenc => exact ctmenc
  | ctmdec => exact ctmdec
  | toposel => exact toposel
  | lutcmp => exact lutcmp
  | lutencL8 ident => exact lutenc ident .l8
  | lutencI10p6 ident => exact lutenc ident .i10p6
  | lutencP10 ident => exact lutenc ident .p10
  | lutencS10 sz half ident => exact lutenc ident (.s10 sz half)
  | lutencMs124 ident => exact lutenc ident .ms124
  | lutencMono16 ident => exact lutenc ident .mono16
  | lutencDp w ident => exact lutenc ident (.dp w)
  | lutdecL8 => exact lutdec .l8
  | lutdecI10p6 => exact lutdec .i10p6
  | lutdecP10 => exact lutdec .p10
  | lutdecS10 sz half => exact lutdec (.s10 sz half)
  | lutdecMs124 => exact lutdec .ms124
  | lutdecMono16 => exact lutdec .mono16
  | lutdecDp w => exact lutdec (.dp w)

/-! ### A host write of a register leaves the rest of the state (10_state.md R46) -/

section
variable (s : State) (r : RegName) (v : Word)

@[simp] theorem State.setReg_status : (s.setReg r v).status = s.status := by cases r <;> rfl
@[simp] theorem State.setReg_clut0 : (s.setReg r v).clut0 = s.clut0 := by cases r <;> rfl
@[simp] theorem State.setReg_clut1 : (s.setReg r v).clut1 = s.clut1 := by cases r <;> rfl
@[simp] theorem State.setReg_hlut : (s.setReg r v).hlut = s.hlut := by cases r <;> rfl
@[simp] theorem State.setReg_params : (s.setReg r v).params = s.params := by cases r <;> rfl
@[simp] theorem State.setReg_powerUp : (s.setReg r v).powerUp = s.powerUp := by cases r <;> rfl
@[simp] theorem State.setReg_pending : (s.setReg r v).pending = s.pending := by cases r <;> rfl
@[simp] theorem State.setReg_readLog : (s.setReg r v).readLog = s.readLog := by cases r <;> rfl

end

/-! ### Commands -/

/-- A command word that decodes runs its instruction, on the state that holds the word (10_state.md R27). -/
theorem runCommand_of_decode {w : Word} {i : Instr} (h : decode w = .ok i) (s : State) :
    runCommand w s = exec i { s with cmd := w } := by
  simp only [runCommand, h]

/-- A command word that selects no row ends with ILLEGAL_COMMAND (60_exceptions.md R246). -/
theorem runCommand_illegal {w : Word} (h : ∀ i, decode w ≠ .ok i) (s : State) :
    runCommand w s = .next (State.raise { s with cmd := w } .illegalCommand) := by
  cases hd : decode w with
  | ok i => exact absurd hd (h i)
  | error e => simp only [runCommand, hd]

/-- An operation never changes the word in `CMD` (log entry 17). -/
theorem exec_cmd {i : Instr} {s t : State} (h : exec i s = .next t) : t.cmd = s.cmd := by
  rcases exec_cases h with ⟨_, rfl⟩ | rfl | ⟨_, _, _, _, rfl⟩ | ⟨_, rfl⟩ | ⟨_, _, -, rfl⟩ | ⟨_, -, rfl⟩ | ⟨_, -, rfl⟩ |
    ⟨_, rfl⟩ | rfl <;> rfl

/-! ### Host moves -/

/-- Everything a host write of a register can do: it is ignored, it sets a register other than `CMD`, or it is a
command. -/
theorem writeRegIndex_cases {n : Nat} {v : Word} {s t : State} (h : writeRegIndex n v s = .next t) :
    t = s ∨ (∃ r, t = s.setReg r v) ∨ runCommand v s = .next t := by
  unfold writeRegIndex at h
  split at h
  · exact .inr (.inr h)
  · cases h
    exact .inr (.inl ⟨_, rfl⟩)
  · cases h
    exact .inl rfl

/-- Everything a host move can do (70_reset_and_hazards.md R263): nothing, a read that is logged, a write of a
register or of a buffer element, an operation, or a word that encodes none. -/
theorem performMove_cases {move : HostMove} {s t : State} (h : performMove move s = .next t) :
    t = s ∨ (∃ v, t = s.logRead v) ∨ (∃ r v, t = s.setReg r v) ∨
    (∃ b i e, t = s.writeEntry b i e) ∨ (∃ i w, t = s.writeHlutWord i w) ∨
    (∃ i w, exec i { s with cmd := w } = .next t) ∨
    (∃ w, t = State.raise { s with cmd := w } .illegalCommand) := by
  have reg {n v} (h : writeRegIndex n v s = .next t) :
      t = s ∨ (∃ r v, t = s.setReg r v) ∨ (∃ i w, exec i { s with cmd := w } = .next t) ∨
        ∃ w, t = State.raise { s with cmd := w } .illegalCommand := by
    rcases writeRegIndex_cases h with h | ⟨r, h⟩ | h
    · exact .inl h
    · exact .inr (.inl ⟨r, v, h⟩)
    · cases hd : decode v with
      | ok i => exact .inr (.inr (.inl ⟨i, v, runCommand_of_decode hd s ▸ h⟩))
      | error e =>
        rw [runCommand_illegal (by simp [hd])] at h
        cases h
        exact .inr (.inr (.inr ⟨v, rfl⟩))
  cases move with
  | readReg n => cases h; exact .inr (.inl ⟨_, rfl⟩)
  | readClut b i => cases h; exact .inr (.inl ⟨_, rfl⟩)
  | readHlut i => cases h; exact .inr (.inl ⟨_, rfl⟩)
  | writeClut b i e => cases h; exact .inr (.inr (.inr (.inl ⟨b, i, e, rfl⟩)))
  | writeHlut i w => cases h; exact .inr (.inr (.inr (.inr (.inl ⟨i, w, rfl⟩))))
  | writeReg n v =>
    rcases reg h with h | h | h
    · exact .inl h
    · exact .inr (.inr (.inl h))
    · exact .inr (.inr (.inr (.inr (.inr h))))
  | busRead address size =>
    simp only [performMove] at h
    split at h
    · cases h; exact .inr (.inl ⟨_, rfl⟩)
    · cases h
  | busWrite address bytes =>
    simp only [performMove] at h
    split at h
    · rcases reg h with h | h | h
      · exact .inl h
      · exact .inr (.inr (.inl h))
      · exact .inr (.inr (.inr (.inr (.inr h))))
    · cases h

/-- Everything a step can do: nothing with no move pending, or the next pending move (70_reset_and_hazards.md R266). -/
theorem step_cases {s t : State} (h : step s = .next t) :
    (s.pending = [] ∧ t = s) ∨
    ∃ move rest, s.pending = move :: rest ∧ performMove move { s with pending := rest } = .next t := by
  unfold step at h
  split at h
  · rename_i hp
    cases h
    exact .inl ⟨hp, rfl⟩
  · rename_i move rest hp
    exact .inr ⟨move, rest, hp, h⟩

end Sys2Proof.Machine
end

section
/-! PROOFS. The invariant (O12, O13): each update of the state keeps it, so every operation, every host move and every
step does. -/

namespace Sys2Proof.Machine

/-! ### `STATUS` and `SAT` stay legal (10_state.md R28, R30) -/

/-- The bits outside a mask are clear when none of them is set. -/
theorem and_not_eq_zero_of {w : Nat} {x mask : BitVec w} (h : ∀ i, mask.getLsbD i = false → x.getLsbD i = false) :
    x &&& ~~~mask = 0 := by
  ext i hi
  have hx := h i
  cases hm : mask.getLsbD i <;> simp_all

theorem getLsbD_of_and_not_eq_zero {w : Nat} {x mask : BitVec w} (h : x &&& ~~~mask = 0) {i : Nat}
    (hm : mask.getLsbD i = false) : x.getLsbD i = false := by
  by_cases hi : i < w
  · simpa [BitVec.getLsbD_eq_getElem hi ▸ hm, hi] using congrArg (·.getLsbD i) h
  · exact BitVec.getLsbD_of_ge _ _ (by omega)

/-- The bits of `STATUS` that can be read as 1. -/
theorem getLsbD_statusReadMask (i : Nat) : statusReadMask.getLsbD i = decide (i < 4 ∨ (10 ≤ i ∧ i < 15)) := by
  by_cases hi : i < 16
  · interval_cases i <;> rfl
  · rw [BitVec.getLsbD_of_ge statusReadMask i (by omega), eq_comm, decide_eq_false_iff_not]
    omega

/-- The bits of `SAT` that can be read as 1. -/
theorem getLsbD_satReadMask (i : Nat) : satReadMask.getLsbD i = decide (i < 9 ∨ (16 ≤ i ∧ i < 25)) := by
  by_cases hi : i < 25
  · interval_cases i <;> rfl
  · rw [BitVec.getLsbD_of_ge satReadMask i (by omega), eq_comm, decide_eq_false_iff_not]
    omega

theorem getLsbD_statusOf (sticky : BitVec 8) (code : BitVec 4) (i : Nat) :
    (statusOf sticky code).getLsbD i = if i < 8 then code.getLsbD i else sticky.getLsbD (i - 8) := by
  by_cases h : i < 8
  · simp [statusOf, h, show i < 16 by omega, show ¬8 ≤ i by omega]
  · have hc : code.getLsbD i = false := BitVec.getLsbD_of_ge _ _ (by omega)
    by_cases h16 : i < 16
    · simp [statusOf, h, h16, hc, show 8 ≤ i by omega]
    · simp [statusOf, h, h16, BitVec.getLsbD_of_ge sticky (i - 8) (by omega)]

/-- `STATUS` put together from its fields is legal when its sticky bits are those of the codes 2 to 6 and a fault's code
has its own. -/
theorem statusLegal_statusOf {sticky : BitVec 8} {code : BitVec 4}
    (hs : ∀ k, ¬(2 ≤ k ∧ k ≤ 6) → sticky.getLsbD k = false) (hc : code ≤ 6)
    (hb : code ≤ 1 ∨ sticky.getLsbD code.toNat = true) : statusLegal (statusOf sticky code) = true := by
  have hr : statusOf sticky code &&& ~~~statusReadMask = 0 := by
    refine and_not_eq_zero_of fun i hi => ?_
    simp only [getLsbD_statusReadMask, decide_eq_false_iff_not] at hi
    rw [getLsbD_statusOf]
    split
    · exact BitVec.getLsbD_of_ge _ _ (by omega)
    · exact hs _ (by omega)
  simpa [statusLegal, hr] using And.intro hc hb

/-- In a legal `STATUS` only the codes 2 to 6 have a sticky bit. -/
theorem statusSticky_of_legal {st : BitVec 16} (h : statusLegal st = true) {k : Nat} (hk : ¬(2 ≤ k ∧ k ≤ 6)) :
    (statusSticky st).getLsbD k = false := by
  by_cases h8 : k < 8
  · simp only [statusLegal, Bool.and_eq_true, beq_iff_eq] at h
    obtain ⟨⟨hr, -⟩, -⟩ := h
    have hm : statusReadMask.getLsbD (8 + k) = false := by
      rw [getLsbD_statusReadMask, decide_eq_false_iff_not]
      omega
    simp [statusSticky, h8, getLsbD_of_and_not_eq_zero hr hm]
  · exact BitVec.getLsbD_of_ge _ _ (by omega)

theorem statusLegal_finish {st : BitVec 16} (h : statusLegal st = true) {code : BitVec 4} (hc : code ≤ 1) :
    statusLegal (statusFinish code st) = true :=
  statusLegal_statusOf (fun _ => statusSticky_of_legal h) (BitVec.le_trans hc (by decide)) (.inl hc)

/-- A raise sets the sticky bit of its own code, which is one of 2 to 6. -/
theorem statusLegal_raise {st : BitVec 16} (h : statusLegal st = true) (f : OpFault) :
    statusLegal (statusRaise f.code st) = true := by
  obtain ⟨h2, h6⟩ := f.code_range
  refine statusLegal_statusOf (fun k hk => ?_) (by simpa [BitVec.le_def] using h6) (.inr ?_)
  · have hk' : ¬(f.code.toNat ≤ k ∧ k - f.code.toNat = 0) := by omega
    simpa [BitVec.getLsbD_or, statusSticky_of_legal h hk] using fun _ => hk'
  · simp [show f.code.toNat < 8 by omega]

/-- The two nine-bit fields of `SAT` lie inside its mask. -/
theorem satLegal_satOf (magSat mantSat : Nine Bool) : satLegal (satOf magSat mantSat) = true := by
  rw [satLegal, beq_iff_eq]
  refine and_not_eq_zero_of fun i hi => ?_
  simp only [getLsbD_satReadMask, decide_eq_false_iff_not] at hi
  have h1 : magSat.toBits.getLsbD i = false := BitVec.getLsbD_of_ge _ _ (by omega)
  have h2 : 16 ≤ i → mantSat.toBits.getLsbD (i - 16) = false := fun _ => BitVec.getLsbD_of_ge _ _ (by omega)
  simpa [satOf, h1] using fun _ => h2

/-! ### The results of TOPOSEL agree with one another (42_topology.md R189 to R193, R208) -/

section
variable (t : Topology)

/-- `LUTFMT` is its three fields at their places (10_state.md R37). -/
theorem Topology.toNat_lutfmt :
    t.lutfmt.toNat = (cfmtCode t.cfmt).toNat * 2 ^ 16 + (shapeByte t.degammaShape).toNat * 2 ^ 8 +
      (shapeByte t.gammaShape).toNat := by
  have hc : (lane 18 (cfmtCode t.cfmt) 16).toNat = (cfmtCode t.cfmt).toNat * 2 ^ 16 := toNat_lane _ _ (by decide)
  have hd : (lane 18 (cfmtCode t.cfmt) 16 ||| lane 18 (shapeByte t.degammaShape) 8).toNat =
      (cfmtCode t.cfmt).toNat * 2 ^ 16 + (shapeByte t.degammaShape).toNat * 2 ^ 8 := by
    rw [toNat_or_lane _ _ _ (by decide) (by omega), hc]
  rw [Topology.lutfmt, toNat_or_lane _ _ _ (by decide) (by omega), hd]
  omega

@[simp] theorem Topology.gamma_lutfmt : lutfmtGamma t.lutfmt = shapeByte t.gammaShape := by
  have hg := (shapeByte t.gammaShape).isLt
  apply BitVec.eq_of_toNat_eq
  rw [lutfmtGamma, toNat_field, t.toNat_lutfmt]
  omega

@[simp] theorem Topology.degamma_lutfmt : lutfmtDegamma t.lutfmt = shapeByte t.degammaShape := by
  have hd := (shapeByte t.degammaShape).isLt
  have hg := (shapeByte t.gammaShape).isLt
  apply BitVec.eq_of_toNat_eq
  rw [lutfmtDegamma, toNat_field, t.toNat_lutfmt]
  omega

@[simp] theorem Topology.cfmt_lutfmt : lutfmtCfmt t.lutfmt = cfmtCode t.cfmt := by
  have hc := (cfmtCode t.cfmt).isLt
  have hd := (shapeByte t.degammaShape).isLt
  have hg := (shapeByte t.gammaShape).isLt
  apply BitVec.eq_of_toNat_eq
  rw [lutfmtCfmt, toNat_field, t.toNat_lutfmt]
  omega

end

theorem cfmtCode_ne_three (c : CoefFormat) : cfmtCode c ≠ 3 := by
  cases c <;> decide

/-- The part of the invariant that speaks of TOPOSEL's six result registers, of a topology. -/
def Topology.resultsLegal (t : Topology) : Bool :=
  topologyLegal t.word t.precision t.lutfmt && modesLegal t.word t.gammaMode t.cscMode t.cgmMode

/-- The profile's coefficient format reaches `LUTFMT.CFMT` only, where every format's code is legal. -/
theorem Topology.resultsLegal_cfmt (t : Topology) (c : CoefFormat) :
    ({ t with cfmt := c } : Topology).resultsLegal = t.resultsLegal := by
  have h (t : Topology) : (lutfmtCfmt t.lutfmt != 3) = true := by simpa using cfmtCode_ne_three t.cfmt
  simp only [Topology.resultsLegal, topologyLegal, h, Topology.gamma_lutfmt, Topology.degamma_lutfmt]
  rfl

/-- Family by family, every row of the mappings of R195 to R201: the requests are five bits. -/
theorem familyMap_resultsLegal (f : Family) : ∀ limCsc d g c y l : Bool,
    (familyMap f limCsc ⟨d, g, c, y, l⟩).all Topology.resultsLegal = true := by
  cases f with
  | i9xx => decide
  | i965 => decide
  | chv => decide
  | ilk => decide
  | ivb => decide
  | glk => decide
  | icl => decide

theorem legacyTopology_resultsLegal : legacyTopology.resultsLegal = true := by decide

/-- Whatever TOPOSEL answers is legal: the legacy result, or a family's with the profile's coefficient format. -/
theorem resultsLegal_of_select {profile : Option Profile} {cfg : BitVec 7} {gamlen : Word} {t : Topology}
    (h : select profile cfg gamlen = .ok t) : t.resultsLegal = true := by
  obtain ⟨p, -, -, ⟨-, rfl⟩ | ⟨-, -, r, hr, rfl⟩⟩ := select_ok h
  · exact legacyTopology_resultsLegal
  · have hm := familyMap_resultsLegal p.family p.limCsc (cfgDegamma cfg) (cfgGamma cfg) (cfgCtm cfg) (cfgYcbcr cfg)
      (cfgLimited cfg)
    rw [requestOf] at hr
    rw [hr] at hm
    exact (Topology.resultsLegal_cfmt r p.cfmt).trans hm

/-! ### The other results -/

/-- `HBASE` after a LUTENC is 0 or where a high half begins (10_state.md R31). -/
theorem hbaseLegal_lutBase (len : TableLens) (sh : LutShape) :
    hbaseLegal len (BitVec.ofNat 32 (lutBase len sh)) = true := by
  rcases sh with _ | _ | _ | ⟨⟨⟩, ⟨⟩⟩ | _ | _ | _ <;> simp [hbaseLegal, lutBase, halfEntries]

theorem buffersCanonical_iff (s : State) :
    s.buffersCanonical = true ↔ Memory.wf s.clut0 = true ∧ Memory.wf s.clut1 = true ∧ Memory.wf s.hlut = true := by
  simp [State.buffersCanonical, and_assoc]

theorem withinCapacity_iff (s : State) :
    s.withinCapacity = true ↔
      (s.clut0.all fun x => x.1 < s.params.clutCap) = true ∧ (s.clut1.all fun x => x.1 < s.params.clutCap) = true ∧
        (s.hlut.all fun x => x.1 < s.params.hlutCap) = true := by
  simp only [State.withinCapacity, Bool.and_eq_true, and_assoc]

/-! ### Each update of the state keeps the invariant -/

namespace Inv

variable {s : State}

/-- The invariant speaks of no field that a host write of a register can change. -/
theorem setReg (h : Inv s) (r : RegName) (v : Word) : Inv (s.setReg r v) := by
  cases r <;> exact ⟨h.launch, h.canonical, h.capacity, h.status, h.sat, h.topology, h.modes, h.compare, h.hbase⟩

theorem withPending (h : Inv s) (moves : List HostMove) : Inv { s with pending := moves } := { h with }

theorem logRead (h : Inv s) (v : HostValue) : Inv (s.logRead v) := { h with }

theorem withMatrix (h : Inv s) (coefs : Nine Coef) : Inv { s with m := coefs } := { h with }

theorem finish (h : Inv s) {code : BitVec 4} (hc : code ≤ 1) : Inv (s.finish code) :=
  { h with status := statusLegal_finish h.status hc }

theorem raise (h : Inv s) (f : OpFault) : Inv (s.raise f) :=
  { h with status := statusLegal_raise h.status f }

theorem storeMatrix (h : Inv s) (p : Profile) (words : Nine (BitVec 16)) (magSat mantSat : Nine Bool) :
    Inv (s.storeMatrix p words magSat mantSat) :=
  { h.finish (code := codeOk) (by decide) with sat := satLegal_satOf magSat mantSat }

theorem storeTopology (h : Inv s) {t : Topology} (ht : t.resultsLegal = true) : Inv (s.storeTopology t) := by
  obtain ⟨htopo, hmodes⟩ := Bool.and_eq_true_iff.mp ht
  exact { h.finish (code := codeOk) (by decide) with topology := htopo, modes := hmodes }

theorem storeCompare (h : Inv s) {equal : BitVec 1} {idx : Word} (hc : compareLegal equal idx = true) :
    Inv (s.storeCompare equal idx) :=
  { h.finish (code := codeOk) (by decide) with compare := hc }

/-- A table of no more words than the capacity keeps `HLUT` canonical and below it. -/
theorem storeTable (h : Inv s) (sh : LutShape) {words : List Word} (hw : words.length ≤ s.params.hlutCap) :
    Inv (s.storeTable sh words) := by
  obtain ⟨hwf0, hwf1, hwfh⟩ := (buffersCanonical_iff s).mp h.canonical
  obtain ⟨hcap0, hcap1, hcaph⟩ := (withinCapacity_iff s).mp h.capacity
  exact { h.finish (code := codeOk) (by decide) with
    canonical := (buffersCanonical_iff _).mpr ⟨hwf0, hwf1, Memory.wf_writePrefix _ _ hwfh⟩
    capacity := (withinCapacity_iff _).mpr ⟨hcap0, hcap1, Memory.below_writePrefix _ _ hw hcaph⟩
    hbase := hbaseLegal_lutBase s.params.tables sh }

/-- Entries of no greater number than the capacity keep `CLUT0` canonical and below it. -/
theorem storeEntries (h : Inv s) (sh : LutShape) {entries : List Entry} (he : entries.length ≤ s.params.clutCap) :
    Inv (s.storeEntries sh entries) := by
  obtain ⟨hwf0, hwf1, hwfh⟩ := (buffersCanonical_iff s).mp h.canonical
  obtain ⟨hcap0, hcap1, hcaph⟩ := (withinCapacity_iff s).mp h.capacity
  exact { h.finish (code := codeOk) (by decide) with
    canonical := (buffersCanonical_iff _).mpr ⟨Memory.wf_writePrefix _ _ hwf0, hwf1, hwfh⟩
    capacity := (withinCapacity_iff _).mpr ⟨Memory.below_writePrefix _ _ he hcap0, hcap1, hcaph⟩ }

/-- A host write of an entry below the capacity; at or beyond it nothing is written (20_memory.md R57). -/
theorem writeEntry (h : Inv s) (b : ClutId) (i : Nat) (e : Entry) : Inv (s.writeEntry b i e) := by
  obtain ⟨hwf0, hwf1, hwfh⟩ := (buffersCanonical_iff s).mp h.canonical
  obtain ⟨hcap0, hcap1, hcaph⟩ := (withinCapacity_iff s).mp h.capacity
  unfold State.writeEntry
  split
  · rename_i hi
    cases b with
    | clut0 =>
      exact { h with
        canonical := (buffersCanonical_iff _).mpr ⟨Memory.wf_write _ _ _ hwf0, hwf1, hwfh⟩
        capacity := (withinCapacity_iff _).mpr ⟨Memory.below_write _ _ hi hcap0, hcap1, hcaph⟩ }
    | clut1 =>
      exact { h with
        canonical := (buffersCanonical_iff _).mpr ⟨hwf0, Memory.wf_write _ _ _ hwf1, hwfh⟩
        capacity := (withinCapacity_iff _).mpr ⟨hcap0, Memory.below_write _ _ hi hcap1, hcaph⟩ }
  · exact h

theorem writeHlutWord (h : Inv s) (i : Nat) (w : Word) : Inv (s.writeHlutWord i w) := by
  obtain ⟨hwf0, hwf1, hwfh⟩ := (buffersCanonical_iff s).mp h.canonical
  obtain ⟨hcap0, hcap1, hcaph⟩ := (withinCapacity_iff s).mp h.capacity
  unfold State.writeHlutWord
  split
  · rename_i hi
    exact { h with
      canonical := (buffersCanonical_iff _).mpr ⟨hwf0, hwf1, Memory.wf_write _ _ _ hwfh⟩
      capacity := (withinCapacity_iff _).mpr ⟨hcap0, hcap1, Memory.below_write _ _ hi hcaph⟩ }
  · exact h

/-! ### Operations, host moves and steps keep the invariant -/

/-- In a well-formed launch an unpacked table has the hardware's length, so entries that fit stay below the capacity. -/
theorem unpacked_fits (h : Inv s) {sh : LutShape} (hf : s.entriesFit sh = true) :
    (unpackLut s.params.tables sh s.readHlutWord).length ≤ s.params.clutCap := by
  have hlen : 1 ≤ s.params.tables.i10p6 := Nat.le_of_lt (lutNeed_bounds h.launch .i10p6).1
  rw [unpackLut_length hlen]
  simpa [State.entriesFit] using hf

theorem exec (h : Inv s) {i : Instr} {t : State} (he : exec i s = .next t) : Inv t := by
  rcases exec_cases he with ⟨f, rfl⟩ | rfl | ⟨p, words, magSat, mantSat, rfl⟩ | ⟨coefs, rfl⟩ | ⟨sh, ident, hf, rfl⟩ |
    ⟨sh, hf, rfl⟩ | ⟨r, hr, rfl⟩ | ⟨k, rfl⟩ | rfl
  · exact h.raise f
  · exact h.finish (by decide)
  · exact h.storeMatrix p words magSat mantSat
  · exact (h.withMatrix coefs).finish (by decide)
  · exact h.storeTable sh (by simpa [State.tableFits] using hf)
  · exact h.storeEntries sh (h.unpacked_fits hf)
  · exact h.storeTopology (resultsLegal_of_select hr)
  · exact h.storeCompare (by simp [compareLegal])
  · exact h.storeCompare (by simp [compareLegal])

theorem performMove (h : Inv s) {move : HostMove} {t : State} (hm : performMove move s = .next t) : Inv t := by
  have stored (w : Word) : Inv { s with cmd := w } := h.setReg .cmd w
  rcases performMove_cases hm with rfl | ⟨v, rfl⟩ | ⟨r, v, rfl⟩ | ⟨b, i, e, rfl⟩ | ⟨i, w, rfl⟩ | ⟨i, w, he⟩ | ⟨w, rfl⟩
  · exact h
  · exact h.logRead v
  · exact h.setReg r v
  · exact h.writeEntry b i e
  · exact h.writeHlutWord i w
  · exact (stored w).exec he
  · exact (stored w).raise .illegalCommand

theorem step (h : Inv s) {t : State} (hs : step s = .next t) : Inv t := by
  rcases step_cases hs with ⟨-, rfl⟩ | ⟨move, rest, -, hm⟩
  · exact h
  · exact (h.withPending rest).performMove hm

/-- Every register is 0 and every buffer empty after reset (10_state.md R45). -/
theorem resetWith {p : Params} (hp : p.wellFormed = true) (power : Nat) : Inv (State.resetWith p power) where
  launch := hp
  canonical := rfl
  capacity := rfl
  status := (by decide : statusLegal 0 = true)
  sat := (by decide : satLegal 0 = true)
  topology := (by decide : topologyLegal 0 0 0 = true)
  modes := (by decide : modesLegal 0 0 0 0 = true)
  compare := rfl
  hbase := rfl

end Inv

/-- Settles O13: each update of the state keeps the invariant, and `step_cases` and `performMove_cases` say which updates a
step can be. -/
theorem stepKeepsTheInvariant : Obligations.StepKeepsTheInvariant := by
  unfold Obligations.StepKeepsTheInvariant
  exact fun _ _ h hs => h.step hs

/-- Settles O12: `Inv.resetWith`; the reference parameters of R9 and R183 are well formed. -/
theorem resetMeetsTheInvariant : Obligations.ResetMeetsTheInvariant := by
  unfold Obligations.ResetMeetsTheInvariant
  exact ⟨Inv.resetWith (by decide) 0, fun _ power hp => Inv.resetWith hp power⟩

end Sys2Proof.Machine
end

section
/-! PROOFS. What every step keeps and what a command does (O14, O6). -/

namespace Sys2Proof.Machine

/-! ### Launch data, pending moves and sticky bits (10_state.md R28, R42) -/

/-- `t` has the launch data and the pending moves of `s`, and every sticky bit that is set in `s`. -/
structure KeepsLaunch (s t : State) : Prop where
  params : t.params = s.params
  powerUp : t.powerUp = s.powerUp
  pending : t.pending = s.pending
  sticky : ∀ k, (statusSticky s.status).getLsbD k = true → (statusSticky t.status).getLsbD k = true

namespace KeepsLaunch

/-- Enough where `STATUS` is left alone. -/
theorem of_status_eq {s t : State} (hp : t.params = s.params) (hu : t.powerUp = s.powerUp)
    (hm : t.pending = s.pending) (hs : t.status = s.status) : KeepsLaunch s t :=
  ⟨hp, hu, hm, fun _ hk => hs ▸ hk⟩

/-- Enough where an operation ends with a code that is no fault: the sticky bits are kept. -/
theorem of_finish {s t : State} {code : BitVec 4} (hp : t.params = s.params) (hu : t.powerUp = s.powerUp)
    (hm : t.pending = s.pending) (hs : t.status = statusFinish code s.status) : KeepsLaunch s t :=
  ⟨hp, hu, hm, fun _ hk => by rwa [hs, statusSticky_finish]⟩

/-- A fault adds its sticky bit to those that are set. -/
theorem raise (s : State) (f : OpFault) : KeepsLaunch s (s.raise f) :=
  ⟨rfl, rfl, rfl, fun _ hk => by simp [hk]⟩

theorem exec {i : Instr} {s t : State} (h : exec i s = .next t) : KeepsLaunch s t := by
  rcases exec_cases h with ⟨f, rfl⟩ | rfl | ⟨_, _, _, _, rfl⟩ | ⟨_, rfl⟩ | ⟨_, _, -, rfl⟩ | ⟨_, -, rfl⟩ | ⟨_, -, rfl⟩ |
    ⟨_, rfl⟩ | rfl
  · exact raise s f
  all_goals exact of_finish rfl rfl rfl rfl

theorem performMove {move : HostMove} {s t : State} (h : performMove move s = .next t) : KeepsLaunch s t := by
  rcases performMove_cases h with rfl | ⟨v, rfl⟩ | ⟨r, v, rfl⟩ | ⟨b, i, e, rfl⟩ | ⟨i, w, rfl⟩ | ⟨i, w, he⟩ | ⟨w, rfl⟩
  · exact of_status_eq rfl rfl rfl rfl
  · exact of_status_eq rfl rfl rfl rfl
  · exact of_status_eq (by simp) (by simp) (by simp) (by simp)
  · unfold State.writeEntry
    split
    · cases b <;> exact of_status_eq rfl rfl rfl rfl
    · exact of_status_eq rfl rfl rfl rfl
  · unfold State.writeHlutWord
    split <;> exact of_status_eq rfl rfl rfl rfl
  · exact { exec he with }
  · exact { raise { s with cmd := w } .illegalCommand with }

end KeepsLaunch

/-- Settles O14: a step performs one pending move, on the state without it, and that keeps the launch data. -/
theorem stepKeepsLaunchDataAndStickyBits : Obligations.StepKeepsLaunchDataAndStickyBits := by
  unfold Obligations.StepKeepsLaunchDataAndStickyBits
  intro s t h
  rcases step_cases h with ⟨hp, rfl⟩ | ⟨move, rest, hp, hm⟩
  · exact ⟨rfl, rfl, by rw [hp]; rfl, fun _ => id⟩
  · have hk := KeepsLaunch.performMove hm
    exact ⟨hk.params, hk.powerUp, by rw [hp]; exact hk.pending, hk.sticky⟩

/-! ### A step that writes `CMD` (10_state.md R27, 60_exceptions.md R246) -/

@[simp] theorem wordOfBytes_wordToBytes (w : Word) : wordOfBytes (wordToBytes w) = some w := by
  simp only [wordOfBytes, wordToBytes, Option.some.injEq]
  ext i hi
  interval_cases i <;> simp

theorem step_of_pending {s : State} {move : HostMove} {rest : List HostMove} (h : s.pending = move :: rest) :
    step s = performMove move { s with pending := rest } := by
  simp only [step, h]

theorem step_of_idle {s : State} (h : s.pending = []) : step s = .next s := by
  simp only [step, h]

/-- A host write of register 0 is a command (10_state.md R27). -/
theorem performMove_writeReg_cmd (w : Word) (s : State) : performMove (.writeReg 0 w) s = runCommand w s := rfl

/-- The same write as a bus access of four bytes (20_memory.md R52). -/
theorem performMove_busWrite_cmd (w : Word) (s : State) :
    performMove (.busWrite 0 (wordToBytes w)) s = runCommand w s := by
  have hi : busIndex 0 (wordToBytes w).length = some 0 := rfl
  simp only [performMove, hi, wordOfBytes_wordToBytes]
  rfl

/-- The opcode table's word of 32 bits is the command word itself (30_encoding.md R70). -/
theorem decodeTableWord_toNat (w : Word) : decodeTableWord 32 w.toNat = (decode w).toOption := by
  rw [decodeTableWord, Nat.mod_eq_of_lt w.isLt, BitVec.ofNat_toNat, BitVec.setWidth_eq]

theorem step_withFetchWord (s : State) (w : Word) : step (s.withFetchWord 32 w.toNat) = runCommand w s := by
  have hp : (s.withFetchWord 32 w.toNat).pending = .writeReg 0 w :: s.pending := by
    simp only [State.withFetchWord, Nat.mod_eq_of_lt w.isLt, BitVec.ofNat_toNat, BitVec.setWidth_eq]
  rw [step_of_pending hp, performMove_writeReg_cmd]
  rfl

/-- Settles O6: a write of `CMD` is `runCommand`, in each of its three forms. -/
theorem stepRunsTheDecodedCommand : Obligations.StepRunsTheDecodedCommand := by
  unfold Obligations.StepRunsTheDecodedCommand
  refine ⟨fun s move rest => step_of_pending, fun s => step_of_idle,
    fun s w i hd => ⟨fun rest hp => ?direct, fun rest hp => ?bus, ⟨?table, ?fetched⟩, fun t ht => ?kept⟩,
    fun w s hd => ⟨fun rest hp => ?illegal, ?none⟩⟩
  case direct => rw [step_of_pending hp, performMove_writeReg_cmd, runCommand_of_decode hd]
  case bus => rw [step_of_pending hp, performMove_busWrite_cmd, runCommand_of_decode hd]
  case table => rw [decodeTableWord_toNat, hd]; rfl
  case fetched => rw [step_withFetchWord, runCommand_of_decode hd]
  case kept => exact ⟨exec_cmd ht, exec_cmd ht⟩
  case illegal =>
    exact ⟨_, by rw [step_of_pending hp, performMove_writeReg_cmd, runCommand_illegal hd],
      EndsWith.of_raise (f := .illegalCommand) rfl, rfl⟩
  case none =>
    rw [decodeTableWord_toNat]
    cases h : decode w with
    | ok i => exact absurd h (hd i)
    | error e => rfl

end Sys2Proof.Machine
end

section
/-! PROOFS. A host write of a register (O7): register by register, what a read gives after it. -/

namespace Sys2Proof.Machine

/-! ### Where a register is (10_state.md R23) -/

/-- The REG index of a register. -/
def RegName.index : RegName → Nat
  | .cmd => 0x00
  | .status => 0x01
  | .errExpected => 0x02
  | .errActual => 0x03
  | .gen => 0x04
  | .cfg => 0x05
  | .deglen => 0x06
  | .gamlen => 0x07
  | .precIn => 0x08
  | .clen0 => 0x09
  | .clen1 => 0x0A
  | .hlen => 0x0B
  | .hbase => 0x0C
  | .sat => 0x0D
  | .cmpres => 0x0E
  | .cmpidx => 0x0F
  | .topo => 0x10
  | .gammaMode => 0x11
  | .cscMode => 0x12
  | .cgmMode => 0x13
  | .prec => 0x14
  | .lutfmt => 0x15
  | .mLo i => 0x20 + 2 * i.val
  | .mHi i => 0x21 + 2 * i.val
  | .ec i => 0x40 + i.val
  | .pre k => 0x4C + k.val
  | .post k => 0x50 + k.val

/-- The register at an index has that index, so no two indices name one register. -/
theorem index_of_regAt {n : Nat} {r : RegName} (h : regAt n = some r) : r.index = n := by
  by_cases hn : n < 0x16
  · interval_cases n <;> (cases h; rfl)
  · simp only [regAt, hn, if_false] at h
    split at h
    · split at h <;> cases h <;> simp only [RegName.index] <;> omega
    · repeat' split at h
      all_goals cases h <;> simp only [RegName.index] <;> omega

/-- Where R23 lists an index there is a register. -/
theorem regListed_of_regAt {n : Nat} {r : RegName} (h : regAt n = some r) : regListed n := by
  rw [← index_of_regAt h, regListed]
  cases r <;> simp only [RegName.index] <;> omega

/-- An index of no register has no bit that can be written. -/
theorem regWritable_of_regAt_none {n : Nat} (h : regAt n = none) : regWritable n = 0 := by
  by_cases hn : n < 0x53
  · revert h
    interval_cases n <;> decide
  · rw [regWritable]
    repeat rw [if_neg (by omega)]

/-! ### Which bits are written (R46) -/

/-- How many bits of a register a host write that is no command takes, from bit 0 up: its width, none for access R (R23). -/
def RegName.writeWidth : RegName → Nat
  | .gen => 4
  | .cfg => 7
  | .precIn => 5
  | .deglen | .gamlen | .clen0 | .clen1 | .hlen => 32
  | .mLo _ | .mHi _ => 32
  | .ec _ => 16
  | .pre _ | .post _ => 13
  | _ => 0

theorem regWritable_index (r : RegName) : regWritable r.index = (BitVec.allOnes r.writeWidth).setWidth 32 := by
  cases r with
  | mLo i | mHi i | ec i => fin_cases i <;> rfl
  | pre k | post k => fin_cases k <;> rfl
  | _ => rfl

/-- A field of `k` bits that took `v` and had been `x`, read as a word. -/
theorem getLsbD_field_written {k : Nat} (x : BitVec k) (v : Word) {i : Nat} (hi : i < 32) :
    ((v.setWidth k).setWidth 32).getLsbD i = if i < k then v.getLsbD i else (x.setWidth 32).getLsbD i := by
  by_cases hk : i < k
  · simp [hi, hk]
  · simp [hk, BitVec.getLsbD_of_ge x i (by omega)]

theorem extractLsb'_lanes_low (hi lo : Word) : (lane 64 hi 32 ||| lane 64 lo 0).extractLsb' 0 32 = lo := by
  ext i h
  simp [show i < 64 by omega, show ¬32 ≤ i by omega, BitVec.getLsbD_eq_getElem h]

theorem extractLsb'_lanes_high (hi lo : Word) : (lane 64 hi 32 ||| lane 64 lo 0).extractLsb' 32 32 = hi := by
  ext i h
  simp [h, show 32 + i < 64 by omega]

/-- Bit by bit, a host write gives the bits of the width their new values and leaves the others. -/
theorem getLsbD_getReg_setReg_same (s : State) {r : RegName} (hr : r ≠ .cmd) (v : Word) {i : Nat} (hi : i < 32) :
    ((s.setReg r v).getReg r).getLsbD i =
      if i < r.writeWidth then v.getLsbD i else (s.getReg r).getLsbD i := by
  cases r with
  | cmd => exact absurd rfl hr
  | gen | cfg | precIn => exact getLsbD_field_written _ v hi
  | deglen | gamlen | clen0 | clen1 | hlen => exact (if_pos hi).symm
  | ec j =>
    simp only [State.setReg, State.getReg, Nine.get_set_same]
    exact getLsbD_field_written _ v hi
  | pre k | post k =>
    simp only [State.setReg, State.getReg, Three.get_set_same]
    exact getLsbD_field_written _ v hi
  | mLo j => simp [State.setReg, State.getReg, RegName.writeWidth, hi, extractLsb'_lanes_low]
  | mHi j => simp [State.setReg, State.getReg, RegName.writeWidth, hi, extractLsb'_lanes_high]
  | _ => rfl

theorem getReg_setReg_same (s : State) {r : RegName} (hr : r ≠ .cmd) (v : Word) :
    (s.setReg r v).getReg r = (v &&& regWritable r.index) ||| (s.getReg r &&& ~~~regWritable r.index) := by
  ext i hi
  have hbit := getLsbD_getReg_setReg_same s hr v hi
  simp only [BitVec.getLsbD_eq_getElem hi] at hbit
  rw [hbit, regWritable_index]
  by_cases hw : i < r.writeWidth <;> simp [hw]

/-- A host write of one register leaves every other; the two halves of a coefficient register are two registers
(R38). -/
theorem getReg_setReg_other (s : State) {r r' : RegName} (h : r' ≠ r) (v : Word) :
    (s.setReg r v).getReg r' = s.getReg r' := by
  cases r with
  | mLo i =>
    cases r' with
    | mLo j => exact congrArg (·.extractLsb' 0 32) (Nine.get_set_other s.m _ (by simpa using h))
    | mHi j =>
      by_cases hij : j = i
      · subst hij; simp [State.setReg, State.getReg, extractLsb'_lanes_high]
      · exact congrArg (·.extractLsb' 32 32) (Nine.get_set_other s.m _ hij)
    | _ => rfl
  | mHi i =>
    cases r' with
    | mLo j =>
      by_cases hij : j = i
      · subst hij; simp [State.setReg, State.getReg, extractLsb'_lanes_low]
      · exact congrArg (·.extractLsb' 0 32) (Nine.get_set_other s.m _ hij)
    | mHi j => exact congrArg (·.extractLsb' 32 32) (Nine.get_set_other s.m _ (by simpa using h))
    | _ => rfl
  | ec i =>
    cases r' with
    | ec j => exact congrArg (·.setWidth 32) (Nine.get_set_other s.ec _ (by simpa using h))
    | _ => rfl
  | pre i =>
    cases r' with
    | pre j => exact congrArg (·.setWidth 32) (Three.get_set_other s.pre _ (by simpa using h))
    | _ => rfl
  | post i =>
    cases r' with
    | post j => exact congrArg (·.setWidth 32) (Three.get_set_other s.post _ (by simpa using h))
    | _ => rfl
  | _ => cases r' <;> first | rfl | exact absurd rfl h

/-- A register of access R ignores the write. -/
theorem setReg_of_readOnly {r : RegName} (hr : r ≠ .cmd) (h : regWritable r.index = 0) (s : State) (v : Word) :
    s.setReg r v = s := by
  have hw : r.writeWidth = 0 := by
    rw [regWritable_index] at h
    simpa using congrArg (·.getLsbD 0) h
  cases r with
  | cmd => exact absurd rfl hr
  | status | errExpected | errActual | hbase | sat | cmpres | cmpidx | topo | gammaMode | cscMode | cgmMode | prec
  | lutfmt => rfl
  | _ => cases hw

/-! ### Reserved bits read as zero (R28, R30, R46) -/

/-- A field read through a mask has no bit outside the mask. -/
theorem masked_and_not {k : Nat} (x mask : BitVec k) : (x &&& mask).setWidth 32 &&& ~~~mask.setWidth 32 = 0 := by
  refine and_not_eq_zero_of fun i hi => ?_
  by_cases h : i < 32 <;> simp_all

/-- A field of `k` bits has no bit above them. -/
theorem field_and_not {k : Nat} (x : BitVec k) : x.setWidth 32 &&& ~~~(BitVec.allOnes k).setWidth 32 = 0 := by
  simpa using masked_and_not x (BitVec.allOnes k)

theorem getReg_and_not_readable (s : State) (r : RegName) : s.getReg r &&& ~~~regReadable r.index = 0 := by
  have all (x : Word) : x &&& ~~~BitVec.allOnes 32 = 0 := by simp
  cases r with
  | status => exact masked_and_not s.status statusReadMask
  | sat => exact masked_and_not s.sat satReadMask
  | gen | cfg | precIn | cmpres | topo | cgmMode | prec | lutfmt => exact field_and_not _
  | mLo i | mHi i => fin_cases i <;> exact all _
  | ec i => fin_cases i <;> exact field_and_not _
  | pre k | post k => fin_cases k <;> exact field_and_not _
  | _ => exact all _

/-! ### Accesses by index -/

theorem readRegIndex_of_regAt {n : Nat} {r : RegName} (h : regAt n = some r) (s : State) :
    s.readRegIndex n = s.getReg r := by
  simp only [State.readRegIndex, h]

theorem readRegIndex_of_none {n : Nat} (h : regAt n = none) (s : State) : s.readRegIndex n = 0 := by
  simp only [State.readRegIndex, h]

theorem performMove_writeReg_of_regAt {n : Nat} {r : RegName} (h : regAt n = some r) (hr : r ≠ .cmd) (v : Word)
    (s : State) : performMove (.writeReg n v) s = .next (s.setReg r v) := by
  simp only [performMove, writeRegIndex, h]

theorem performMove_writeReg_of_none {n : Nat} (h : regAt n = none) (v : Word) (s : State) :
    performMove (.writeReg n v) s = .next s := by
  simp only [performMove, writeRegIndex, h]

/-- A write of one index leaves what a read of every other gives. -/
theorem readRegIndex_setReg_other {n k : Nat} {r : RegName} (h : regAt n = some r) (hk : k ≠ n) (s : State) (v : Word) :
    (s.setReg r v).readRegIndex k = s.readRegIndex k := by
  cases hr' : regAt k with
  | none => rw [readRegIndex_of_none hr', readRegIndex_of_none hr']
  | some r' =>
    rw [readRegIndex_of_regAt hr', readRegIndex_of_regAt hr']
    refine getReg_setReg_other s (fun hrr => hk ?_) v
    rw [← index_of_regAt h, ← index_of_regAt hr', hrr]

/-- Settles O7: an index of no register is ignored and reads 0; a register takes the bits of its width. -/
theorem registerWriteReadsBackItsWidth : Obligations.RegisterWriteReadsBackItsWidth := by
  unfold Obligations.RegisterWriteReadsBackItsWidth
  intro s n v hn
  cases hr : regAt n with
  | none =>
    have hw : regWritable n = 0 := regWritable_of_regAt_none hr
    have h0 := readRegIndex_of_none hr s
    have hm := performMove_writeReg_of_none hr v s
    refine ⟨⟨s, hm, ?_, fun _ _ => rfl, rfl, rfl, rfl, rfl, rfl, rfl, rfl⟩, fun _ => hm, fun _ => ⟨hw, h0⟩, ?_⟩
    · simp [h0, hw]
    · simp [h0]
  | some r =>
    have hcmd : r ≠ .cmd := by
      rintro rfl
      exact hn (regAt_eq_cmd hr)
    have hm := performMove_writeReg_of_regAt hr hcmd v s
    have hidx := index_of_regAt hr
    refine ⟨⟨_, hm, ?same, fun k hk => readRegIndex_setReg_other hr hk s v, by simp, by simp, by simp, by simp,
      by simp, by simp, by simp⟩, fun hw => ?readOnly, fun hl => absurd (regListed_of_regAt hr) hl, ?reserved⟩
    case same =>
      rw [readRegIndex_of_regAt hr, readRegIndex_of_regAt hr, ← hidx]
      exact getReg_setReg_same s hcmd v
    case readOnly => rw [hm, setReg_of_readOnly hcmd (hidx ▸ hw)]
    case reserved =>
      rw [readRegIndex_of_regAt hr, ← hidx]
      exact getReg_and_not_readable s r

end Sys2Proof.Machine
end

section
/-! PROOFS. The frame of every operation (O18), and that none reads what an earlier one recorded (O17). -/

namespace Sys2Proof.Machine

/-! ### What an operation writes (20_memory.md R51) -/

theorem writesOnly_lutencOf {ident : Bool} {sh : LutShape} {s t : State}
    (h : t = { s with
      hlut := t.hlut, hlen := t.hlen, hbase := t.hbase, status := t.status, errExpected := t.errExpected,
      errActual := t.errActual }) : WritesOnly (lutencOf ident sh) s t := by
  cases sh <;> exact h

theorem writesOnly_lutdecOf {sh : LutShape} {s t : State}
    (h : t = { s with
      clut0 := t.clut0, clen0 := t.clen0, status := t.status, errExpected := t.errExpected,
      errActual := t.errActual }) : WritesOnly (lutdecOf sh) s t := by
  cases sh <;> exact h

/-- TOPOSEL faults with one of two codes, neither of which records lengths (42_topology.md R187, R202). -/
theorem select_error {profile : Option Profile} {cfg : BitVec 7} {gamlen : Word} {f : OpFault}
    (h : select profile cfg gamlen = .error f) : f = .unsupportedCombination ∨ f = .incompatibleIndexedMode := by
  simp only [select] at h
  repeat' split at h
  all_goals cases h
  all_goals simp

/-- Each way an operation can end writes only fields its row of R51 names. -/
theorem exec_writesOnly {i : Instr} {s t : State} (h : exec i s = .next t) : WritesOnly i s t := by
  cases i using Instr.cases_shape with
  | ctmenc => rcases execCtmenc_cases h with rfl | ⟨_, _, _, _, -, -, rfl⟩ <;> rfl
  | ctmdec => rcases execCtmdec_cases h with rfl | rfl | ⟨_, rfl⟩ <;> rfl
  | lutenc ident sh =>
    rw [exec_lutencOf] at h
    apply writesOnly_lutencOf
    rcases encodeLut_cases h with ⟨-, rfl⟩ | ⟨-, -, rfl⟩ | ⟨-, -, rfl⟩ <;> rfl
  | lutdec sh =>
    rw [exec_lutdecOf] at h
    apply writesOnly_lutdecOf
    rcases decodeLut_cases h with ⟨-, rfl⟩ | ⟨-, -, -, rfl⟩ | ⟨-, -, _, _, rfl⟩ <;> rfl
  | toposel =>
    rcases execToposel_cases h with ⟨f, hf, rfl⟩ | ⟨_, -, rfl⟩
    · rcases select_error hf with rfl | rfl <;> rfl
    · rfl
  | lutcmp => rcases execLutcmp_cases h with ⟨_, _, rfl⟩ | ⟨_, rfl⟩ | rfl <;> rfl

/-- The two error registers are written by SIZE_MISMATCH only (10_state.md R29). -/
theorem exec_errRegisters {i : Instr} {s t : State} (h : exec i s = .next t) (h2 : ¬EndsWith s t 2) :
    t.errExpected = s.errExpected ∧ t.errActual = s.errActual := by
  rcases exec_cases h with ⟨f, rfl⟩ | rfl | ⟨_, _, _, _, rfl⟩ | ⟨_, rfl⟩ | ⟨_, _, -, rfl⟩ | ⟨_, -, rfl⟩ | ⟨_, -, rfl⟩ |
    ⟨_, rfl⟩ | rfl
  · cases f with
    | sizeMismatch e a => exact absurd (EndsWith.of_raise (f := .sizeMismatch e a) rfl) h2
    | _ => exact ⟨rfl, rfl⟩
  all_goals exact ⟨rfl, rfl⟩

/-- `HLUT` changes only where a LUTENC stores its table, below the new `HLEN` (20_memory.md R58). -/
theorem exec_readHlutWord {i : Instr} {s t : State} (h : exec i s = .next t) (hp : s.params.wellFormed = true) {j : Nat}
    (hj : t.hlen.toNat ≤ j) : t.readHlutWord j = s.readHlutWord j := by
  rcases exec_cases h with ⟨f, rfl⟩ | rfl | ⟨_, _, _, _, rfl⟩ | ⟨_, rfl⟩ | ⟨sh, _, -, rfl⟩ | ⟨_, -, rfl⟩ | ⟨_, -, rfl⟩ |
    ⟨_, rfl⟩ | rfl
  -- a LUTENC stored its table
  case inr.inr.inr.inr.inl =>
    obtain ⟨hw, -, -⟩ := lengths_lt hp sh
    apply storeTable_read_beyond
    rw [State.storeTable_hlen, BitVec.toNat_ofNat, Nat.mod_eq_of_lt hw] at hj
    rwa [packLut_length]
  all_goals exact State.readHlutWord_congr rfl rfl rfl j

/-- `CLUT0` changes only where a LUTDEC stores its entries, below the new `CLEN0` (20_memory.md R58). -/
theorem exec_readEntry_clut0 {i : Instr} {s t : State} (h : exec i s = .next t) (hp : s.params.wellFormed = true)
    {j : Nat} (hj : t.clen0.toNat ≤ j) : t.readEntry .clut0 j = s.readEntry .clut0 j := by
  rcases exec_cases h with ⟨f, rfl⟩ | rfl | ⟨_, _, _, _, rfl⟩ | ⟨_, rfl⟩ | ⟨_, _, -, rfl⟩ | ⟨sh, -, rfl⟩ | ⟨_, -, rfl⟩ |
    ⟨_, rfl⟩ | rfl
  -- a LUTDEC stored its entries
  case inr.inr.inr.inr.inr.inl =>
    obtain ⟨-, hw, -⟩ := lengths_lt hp sh
    have hlen : 1 ≤ s.params.tables.i10p6 := Nat.le_of_lt (lutNeed_bounds hp .i10p6).1
    apply storeEntries_read_beyond
    rw [State.storeEntries_clen0, BitVec.toNat_ofNat, Nat.mod_eq_of_lt hw] at hj
    rwa [unpackLut_length hlen]
  all_goals exact State.readEntry_congr .clut0 rfl rfl rfl j

/-- No operation writes `CLUT1` (20_memory.md R51). -/
theorem exec_readEntry_clut1 {i : Instr} {s t : State} (h : exec i s = .next t) (j : Nat) :
    t.readEntry .clut1 j = s.readEntry .clut1 j := by
  rcases exec_cases h with ⟨_, rfl⟩ | rfl | ⟨_, _, _, _, rfl⟩ | ⟨_, rfl⟩ | ⟨_, _, -, rfl⟩ | ⟨_, -, rfl⟩ | ⟨_, -, rfl⟩ |
    ⟨_, rfl⟩ | rfl
  all_goals exact State.readEntry_congr .clut1 rfl rfl rfl j

/-- Settles O18: the frame lemmas above, one for each clause. -/
theorem operationsWriteOnlyTheirTable : Obligations.OperationsWriteOnlyTheirTable := by
  unfold Obligations.OperationsWriteOnlyTheirTable
  exact fun i s t h => ⟨exec_writesOnly h, exec_errRegisters h,
    fun hp => ⟨fun _ => exec_readHlutWord h hp, fun _ => exec_readEntry_clut0 h hp⟩, exec_readEntry_clut1 h⟩

/-! ### Earlier outcomes (10_state.md R43)

The same operation is run from `s` and from `s` with the outcomes of `o`; `t` and `t'` are where the two runs end. -/

/-- The two runs end with one code and differ in the outcome registers at most, and each of those either got one value in
both runs or kept its own in both. -/
structure SameOutcome (s o t t' : State) : Prop where
  ends : ∃ code, EndsWith s t code ∧ EndsWith (s.withOutcomeOf o) t' code
  rest : t' = t.withOutcomeOf t'
  errExpected : Carried State.errExpected s o t t'
  errActual : Carried State.errActual s o t t'
  sat : Carried State.sat s o t t'
  cmpres : Carried State.cmpres s o t t'
  cmpidx : Carried State.cmpidx s o t t'
  topo : Carried State.topo s o t t'
  gammaMode : Carried State.gammaMode s o t t'
  cscMode : Carried State.cscMode s o t t'
  cgmMode : Carried State.cgmMode s o t t'
  prec : Carried State.prec s o t t'
  lutfmt : Carried State.lutfmt s o t t'
  hbase : Carried State.hbase s o t t'

/-- A field that both runs left alone. -/
theorem Carried.kept {α : Type} {f : State → α} {s o t t' : State} (h : f t = f s) (h' : f t' = f o) :
    Carried f s o t t' := .inr ⟨h, h'⟩

namespace SameOutcome

variable (s o : State)

/-- Ending with a code that is no fault leaves every outcome register but `STATUS` alone. -/
theorem finish {code : BitVec 4} (hc : code.toNat < 2) :
    SameOutcome s o (s.finish code) ((s.withOutcomeOf o).finish code) where
  ends := ⟨code.toNat, EndsWith.of_finish hc rfl, EndsWith.of_finish hc rfl⟩
  rest := rfl
  errExpected := .kept rfl rfl
  errActual := .kept rfl rfl
  sat := .kept rfl rfl
  cmpres := .kept rfl rfl
  cmpidx := .kept rfl rfl
  topo := .kept rfl rfl
  gammaMode := .kept rfl rfl
  cscMode := .kept rfl rfl
  cgmMode := .kept rfl rfl
  prec := .kept rfl rfl
  lutfmt := .kept rfl rfl
  hbase := .kept rfl rfl

theorem finishOk : SameOutcome s o (s.finish codeOk) ((s.withOutcomeOf o).finish codeOk) :=
  finish s o (by decide)

/-- A fault gives the error registers the same lengths in both runs, or leaves them. -/
theorem raise (f : OpFault) : SameOutcome s o (s.raise f) ((s.withOutcomeOf o).raise f) :=
  { finishOk s o with
    ends := ⟨f.code.toNat, EndsWith.of_raise rfl, EndsWith.of_raise rfl⟩
    rest := rfl
    errExpected := by
      cases f with
      | sizeMismatch => exact .inl rfl
      | _ => exact .kept rfl rfl
    errActual := by
      cases f with
      | sizeMismatch => exact .inl rfl
      | _ => exact .kept rfl rfl }

theorem storeMatrix (p : Profile) (words : Nine (BitVec 16)) (magSat mantSat : Nine Bool) :
    SameOutcome s o (s.storeMatrix p words magSat mantSat)
      ((s.withOutcomeOf o).storeMatrix p words magSat mantSat) :=
  { finishOk s o with rest := rfl, sat := .inl rfl }

theorem storeCoefs (coefs : Nine Coef) :
    SameOutcome s o ({ s with m := coefs }.finish codeOk)
      (State.finish { s.withOutcomeOf o with m := coefs } codeOk) :=
  { finishOk s o with rest := rfl }

theorem storeTable (sh : LutShape) (words : List Word) :
    SameOutcome s o (s.storeTable sh words) ((s.withOutcomeOf o).storeTable sh words) :=
  { finishOk s o with rest := rfl, hbase := .inl rfl }

theorem storeEntries (sh : LutShape) (entries : List Entry) :
    SameOutcome s o (s.storeEntries sh entries) ((s.withOutcomeOf o).storeEntries sh entries) :=
  { finishOk s o with rest := rfl }

theorem storeTopology (t : Topology) :
    SameOutcome s o (s.storeTopology t) ((s.withOutcomeOf o).storeTopology t) :=
  { finishOk s o with
    rest := rfl, topo := .inl rfl, gammaMode := .inl rfl, cscMode := .inl rfl, cgmMode := .inl rfl, prec := .inl rfl
    lutfmt := .inl rfl }

theorem storeCompare (equal : BitVec 1) (idx : Word) :
    SameOutcome s o (s.storeCompare equal idx) ((s.withOutcomeOf o).storeCompare equal idx) :=
  { finishOk s o with rest := rfl, cmpres := .inl rfl, cmpidx := .inl rfl }

end SameOutcome

/-- Both runs answer a next state, and the two agree. -/
def SameResult (s o : State) (r r' : Result) : Prop :=
  ∃ t t', r = .next t ∧ r' = .next t' ∧ SameOutcome s o t t'

theorem SameOutcome.result {s o t t' : State} (h : SameOutcome s o t t') : SameResult s o (.next t) (.next t') :=
  ⟨t, t', rfl, rfl, h⟩

/-- A branch on what both runs read alike. -/
theorem SameResult.ite {s o : State} {c : Prop} [Decidable c] {a a' b b' : Result} (ha : SameResult s o a a')
    (hb : SameResult s o b b') : SameResult s o (if c then a else b) (if c then a' else b') := by
  by_cases h : c
  · simpa only [if_pos h] using ha
  · simpa only [if_neg h] using hb

/-! What an operation branches on is no outcome register, so it is the same in both runs by definition. -/

section
variable (s o : State)

@[simp] theorem withOutcomeOf_profile : (s.withOutcomeOf o).profile? = s.profile? := rfl
@[simp] theorem withOutcomeOf_cfg : (s.withOutcomeOf o).cfg = s.cfg := rfl
@[simp] theorem withOutcomeOf_gamlen : (s.withOutcomeOf o).gamlen = s.gamlen := rfl
@[simp] theorem withOutcomeOf_precIn : (s.withOutcomeOf o).precIn = s.precIn := rfl
@[simp] theorem withOutcomeOf_clen0 : (s.withOutcomeOf o).clen0 = s.clen0 := rfl
@[simp] theorem withOutcomeOf_ec : (s.withOutcomeOf o).ec = s.ec := rfl
@[simp] theorem withOutcomeOf_firstMismatch : (s.withOutcomeOf o).firstMismatch = s.firstMismatch := rfl

theorem encodeLut_sameResult (sh : LutShape) (ident : Bool) :
    SameResult s o (encodeLut sh ident s) (encodeLut sh ident (s.withOutcomeOf o)) :=
  .ite (SameOutcome.raise s o _).result
    (.ite (SameOutcome.storeTable s o sh _).result (SameOutcome.raise s o _).result)

theorem decodeLut_sameResult (sh : LutShape) :
    SameResult s o (decodeLut sh s) (decodeLut sh (s.withOutcomeOf o)) :=
  .ite (SameOutcome.raise s o _).result
    (.ite (SameOutcome.raise s o _).result
      (.ite (SameOutcome.raise s o _).result (SameOutcome.storeEntries s o sh _).result))

theorem execToposel_sameResult : SameResult s o (execToposel s) (execToposel (s.withOutcomeOf o)) := by
  simp only [execToposel, withOutcomeOf_profile, withOutcomeOf_cfg, withOutcomeOf_gamlen]
  cases select s.profile? s.cfg s.gamlen with
  | error f => exact (SameOutcome.raise s o f).result
  | ok t => exact (SameOutcome.storeTopology s o t).result

theorem execLutcmp_sameResult : SameResult s o (execLutcmp s) (execLutcmp (s.withOutcomeOf o)) := by
  refine .ite (SameOutcome.raise s o _).result (.ite (SameOutcome.storeCompare s o 0 _).result ?_)
  simp only [withOutcomeOf_precIn, withOutcomeOf_clen0, withOutcomeOf_firstMismatch]
  cases s.firstMismatch (tolerance s.precIn) s.clen0.toNat with
  | some i => exact (SameOutcome.storeCompare s o 0 _).result
  | none => exact (SameOutcome.storeCompare s o 1 0).result

theorem execCtmenc_sameResult : SameResult s o (execCtmenc s) (execCtmenc (s.withOutcomeOf o)) := by
  simp only [execCtmenc, withOutcomeOf_profile]
  cases s.profile? with
  | none => exact (SameOutcome.raise s o _).result
  | some p =>
    simp only
    cases p.cfmt with
    | none => exact (SameOutcome.raise s o _).result
    | fpSm => exact (SameOutcome.storeMatrix s o p _ _ _).result
    | fixS312 => exact (SameOutcome.storeMatrix s o p _ _ _).result

theorem execCtmdec_sameResult : SameResult s o (execCtmdec s) (execCtmdec (s.withOutcomeOf o)) := by
  have unsupported := (SameOutcome.finish s o (code := codeUnsupported) (by decide)).result
  simp only [execCtmdec, withOutcomeOf_profile, withOutcomeOf_ec]
  cases s.profile? with
  | none => exact unsupported
  | some p =>
    refine .ite ?_ unsupported
    cases p.cfmt with
    | none => exact unsupported
    | fpSm =>
      simp only
      cases (s.ec.map decFp).sequence with
      | none => exact (SameOutcome.raise s o _).result
      | some t => exact (SameOutcome.storeCoefs s o _).result
    | fixS312 => exact (SameOutcome.storeCoefs s o _).result

theorem exec_sameResult (i : Instr) : SameResult s o (exec i s) (exec i (s.withOutcomeOf o)) := by
  cases i using Instr.cases_shape with
  | ctmenc => exact execCtmenc_sameResult s o
  | ctmdec => exact execCtmdec_sameResult s o
  | lutenc ident sh => simpa only [exec_lutencOf] using encodeLut_sameResult s o sh ident
  | lutdec sh => simpa only [exec_lutdecOf] using decodeLut_sameResult s o sh
  | toposel => exact execToposel_sameResult s o
  | lutcmp => exact execLutcmp_sameResult s o

end

theorem WritesOnly.sat {i : Instr} {s t : State} (h : WritesOnly i s t) (hi : i ≠ .ctmenc) : t.sat = s.sat := by
  cases i with
  | ctmenc => exact absurd rfl hi
  | _ => exact (congrArg State.sat h :)

theorem WritesOnly.cmpres {i : Instr} {s t : State} (h : WritesOnly i s t) (hi : i ≠ .lutcmp) : t.cmpres = s.cmpres := by
  cases i with
  | lutcmp => exact absurd rfl hi
  | _ => exact (congrArg State.cmpres h :)

/-- Settles O17: who writes `SAT` and `CMPRES` is in the frame; that the two runs agree is `exec_sameResult`. -/
theorem operationsIgnoreEarlierOutcomes : Obligations.OperationsIgnoreEarlierOutcomes := by
  unfold Obligations.OperationsIgnoreEarlierOutcomes
  intro i s o t h
  have hw := exec_writesOnly h
  obtain ⟨t₁, t', h₁, h', hs⟩ := exec_sameResult s o i
  obtain rfl : t₁ = t := by simpa [h] using h₁.symm
  obtain ⟨code, hc, hc'⟩ := hs.ends
  exact ⟨hw.sat, hw.cmpres, t', code, h', hc, hc', hs.rest, hs.errExpected, hs.errActual, hs.sat, hs.cmpres, hs.cmpidx,
    hs.topo, hs.gammaMode, hs.cscMode, hs.cgmMode, hs.prec, hs.lutfmt, hs.hbase⟩

end Sys2Proof.Machine
end

section
/-! PROOFS. The shape bytes of `LUTFMT` are commands (O57). -/

namespace Sys2Proof.Machine

/-- A shape byte is 0, or has bit 7 set and bit 6 clear (10_state.md R37). -/
theorem shapeByte_some (sh : LutShape) :
    0x80 ≤ (shapeByte (some sh)).toNat ∧ (shapeByte (some sh)).toNat / 0x40 % 2 = 0 := by
  rcases sh with _ | _ | _ | ⟨⟨⟩, ⟨⟩⟩ | _ | _ | ⟨⟨⟩⟩ <;> decide

/-- The LUTENC word with the SHAPE and ARG fields of a shape byte (30_encoding.md R70). -/
def lutencWord (byte : Nat) : Nat := 0x10000000 + 2 ^ 20 * (byte % 16) + 2 ^ 16 * (byte / 16 % 4)

/-- The fields of a shape's byte, put into a LUTENC word, name that shape, without `ID` and with it. -/
theorem decode_lutencWord (sh : LutShape) :
    decode (BitVec.ofNat 32 (lutencWord (shapeByte (some sh)).toNat)) = .ok (lutencOf false sh) ∧
      decode (BitVec.ofNat 32 (lutencWord (shapeByte (some sh)).toNat + 2 ^ 8)) = .ok (lutencOf true sh) := by
  rcases sh with _ | _ | _ | ⟨⟨⟩, ⟨⟩⟩ | _ | _ | ⟨⟨⟩⟩ <;> exact ⟨rfl, rfl⟩

/-- A TOPOSEL that ends OK stored a topology: a fault's code is not 0. -/
theorem execToposel_ok {s t : State} (h : execToposel s = .next t) (h0 : EndsWith s t 0) :
    ∃ r, t = s.storeTopology r := by
  rcases execToposel_cases h with ⟨f, -, rfl⟩ | ⟨r, -, rfl⟩
  · have hf : f.code.toNat = 0 := (EndsWith.of_raise rfl).unique h0
    have := f.code_range
    omega
  · exact ⟨r, rfl⟩

theorem toNat_lutfmtGamma (f : BitVec 18) : (lutfmtGamma f).toNat = f.toNat % 2 ^ 8 := by
  rw [lutfmtGamma, toNat_field, Nat.pow_zero, Nat.div_one]

theorem toNat_lutfmtDegamma (f : BitVec 18) : (lutfmtDegamma f).toNat = f.toNat / 2 ^ 8 % 2 ^ 8 :=
  toNat_field f 8 8

/-- Settles O57: either byte of `LUTFMT` is `shapeByte` of the topology's table of that class. -/
theorem shapeBytesAreCommands : Obligations.ShapeBytesAreCommands := by
  unfold Obligations.ShapeBytesAreCommands
  intro s t byte h h0 hbyte
  obtain ⟨r, rfl⟩ := execToposel_ok h h0
  rw [State.storeTopology_lutfmt, ← toNat_lutfmtGamma, ← toNat_lutfmtDegamma, Topology.gamma_lutfmt,
    Topology.degamma_lutfmt] at hbyte
  obtain ⟨table, rfl⟩ : ∃ table, byte = (shapeByte table).toNat :=
    hbyte.elim (fun hb => ⟨_, hb⟩) (fun hb => ⟨_, hb⟩)
  cases table with
  | none => exact ⟨fun _ => rfl, fun h80 => absurd h80 (by decide)⟩
  | some sh =>
    obtain ⟨h80, h40⟩ := shapeByte_some sh
    exact ⟨fun hlt => absurd h80 (by omega), fun _ => ⟨h40, sh, decode_lutencWord sh⟩⟩

end Sys2Proof.Machine
end

section
/-! PROOFS. The host's accesses to the three buffers and to the byte mapping of REG (O8, O9, O10). -/

namespace Sys2Proof.Machine

/-- Settles O8: a read is `State.logRead` of the value it names. -/
theorem hostReadsChangeNothing : Obligations.HostReadsChangeNothing := by
  unfold Obligations.HostReadsChangeNothing
  exact fun _ _ _ => ⟨rfl, rfl, rfl⟩

/-! ### Buffer elements at and beyond the capacity (20_memory.md R57) -/

section
variable (s : State)

theorem State.readEntry_of_ge {i : Nat} (h : s.params.clutCap ≤ i) (b : ClutId) : s.readEntry b i = ⟨0, 0, 0⟩ := by
  rw [State.readEntry, if_neg (by omega)]

theorem State.readHlutWord_of_ge {i : Nat} (h : s.params.hlutCap ≤ i) : s.readHlutWord i = 0 := by
  rw [State.readHlutWord, if_neg (by omega)]

theorem State.writeEntry_of_lt {i : Nat} (h : i < s.params.clutCap) (b : ClutId) (e : Entry) :
    s.writeEntry b i e = s.setClut b ((s.clut b).write i e) := by
  rw [State.writeEntry, if_pos h]

theorem State.writeEntry_of_ge {i : Nat} (h : s.params.clutCap ≤ i) (b : ClutId) (e : Entry) :
    s.writeEntry b i e = s := by
  rw [State.writeEntry, if_neg (by omega)]

theorem State.writeHlutWord_of_lt {i : Nat} (h : i < s.params.hlutCap) (w : Word) :
    s.writeHlutWord i w = { s with hlut := s.hlut.write i w } := by
  rw [State.writeHlutWord, if_pos h]

theorem State.writeHlutWord_of_ge {i : Nat} (h : s.params.hlutCap ≤ i) (w : Word) : s.writeHlutWord i w = s := by
  rw [State.writeHlutWord, if_neg (by omega)]

/-! ### A host write of a buffer element (20_memory.md R50, R54) -/

theorem State.setClut_frame (b : ClutId) (mem : Memory Entry) :
    s.setClut b mem = { s with clut0 := (s.setClut b mem).clut0, clut1 := (s.setClut b mem).clut1 } := by
  cases b <;> rfl

theorem State.writeEntry_frame (b : ClutId) (i : Nat) (e : Entry) :
    s.writeEntry b i e = { s with clut0 := (s.writeEntry b i e).clut0, clut1 := (s.writeEntry b i e).clut1 } := by
  rcases Nat.lt_or_ge i s.params.clutCap with h | h
  · rw [s.writeEntry_of_lt h]
    exact s.setClut_frame b _
  · rw [s.writeEntry_of_ge h]

theorem State.writeHlutWord_frame (i : Nat) (w : Word) :
    s.writeHlutWord i w = { s with hlut := (s.writeHlutWord i w).hlut } := by
  rcases Nat.lt_or_ge i s.params.hlutCap with h | h
  · rw [s.writeHlutWord_of_lt h]
  · rw [s.writeHlutWord_of_ge h]

theorem State.readEntry_writeEntry_same {i : Nat} (h : i < s.params.clutCap) (b : ClutId) (e : Entry) :
    (s.writeEntry b i e).readEntry b i = e := by
  rw [s.writeEntry_of_lt h, State.readEntry, State.params_setClut, if_pos h, State.clut_setClut_same,
    Memory.lookup_write_same, Option.getD_some]

theorem State.readHlutWord_writeHlutWord_same {i : Nat} (h : i < s.params.hlutCap) (w : Word) :
    (s.writeHlutWord i w).readHlutWord i = w := by
  rw [s.writeHlutWord_of_lt h, State.readHlutWord, if_pos h, Memory.lookup_write_same, Option.getD_some]

/-- A write keeps every element but the one at its buffer and index. -/
theorem State.readEntry_writeEntry_other {b c : ClutId} {i j : Nat} (h : c ≠ b ∨ j ≠ i) (e : Entry) :
    (s.writeEntry b i e).readEntry c j = s.readEntry c j := by
  rcases Nat.lt_or_ge i s.params.clutCap with hi | hi
  · rw [s.writeEntry_of_lt hi]
    by_cases hc : c = b
    · subst hc
      have hj : j ≠ i := h.resolve_left fun hne => hne rfl
      simp only [State.readEntry, State.params_setClut, State.powerUp_setClut, State.clut_setClut_same,
        Memory.lookup_write_other _ _ hj]
    · exact State.readEntry_congr c (s.clut_setClut_other _ hc) (s.params_setClut b _) (s.powerUp_setClut b _) j
  · rw [s.writeEntry_of_ge hi]

theorem State.readHlutWord_writeHlutWord_other {i j : Nat} (h : j ≠ i) (w : Word) :
    (s.writeHlutWord i w).readHlutWord j = s.readHlutWord j := by
  rcases Nat.lt_or_ge i s.params.hlutCap with hi | hi
  · simp only [s.writeHlutWord_of_lt hi, State.readHlutWord, Memory.lookup_write_other _ _ h]
  · rw [s.writeHlutWord_of_ge hi]

end

/-- Settles O9: read after write, frame and capacity edge, for the canonical buffers and for `HLUT`. -/
theorem bufferWriteReadsBack : Obligations.BufferWriteReadsBack := by
  unfold Obligations.BufferWriteReadsBack
  constructor
  · exact fun s b i e => ⟨s.writeEntry b i e, rfl, s.writeEntry_frame b i e,
      fun h => s.readEntry_writeEntry_same h b e,
      fun h => ⟨s.writeEntry_of_ge h b e, s.readEntry_of_ge h b⟩,
      fun c j h => s.readEntry_writeEntry_other h e⟩
  · exact fun s i w => ⟨s.writeHlutWord i w, rfl, s.writeHlutWord_frame i w,
      fun h => s.readHlutWord_writeHlutWord_same h w,
      fun h => ⟨s.writeHlutWord_of_ge h w, s.readHlutWord_of_ge h⟩,
      fun j h => s.readHlutWord_writeHlutWord_other h w⟩

/-! ### The byte mapping of REG (20_memory.md R52, R53) -/

/-- A word is the number of its four bytes, bits [7:0] first. -/
theorem toNat_eq_bytes (w : Word) :
    w.toNat = (w.extractLsb' 0 8).toNat + 2 ^ 8 * (w.extractLsb' 8 8).toNat + 2 ^ 16 * (w.extractLsb' 16 8).toNat +
      2 ^ 24 * (w.extractLsb' 24 8).toNat := by
  have := w.isLt
  simp only [toNat_field]
  omega

/-- Four bytes make the word of their number, the first byte the lowest. -/
theorem wordOfBytes_four (b0 b1 b2 b3 : Byte) :
    wordOfBytes [b0, b1, b2, b3] =
      some (BitVec.ofNat 32 (b0.toNat + 2 ^ 8 * b1.toNat + 2 ^ 16 * b2.toNat + 2 ^ 24 * b3.toNat)) := by
  have h3 : (lane 32 b3 24).toNat = b3.toNat * 2 ^ 24 := toNat_lane _ _ (by decide)
  have h2 : (lane 32 b3 24 ||| lane 32 b2 16).toNat = b3.toNat * 2 ^ 24 + b2.toNat * 2 ^ 16 := by
    rw [toNat_or_lane _ _ _ (by decide) (by omega), h3]
  have h1 : (lane 32 b3 24 ||| lane 32 b2 16 ||| lane 32 b1 8).toNat =
      b3.toNat * 2 ^ 24 + b2.toNat * 2 ^ 16 + b1.toNat * 2 ^ 8 := by
    rw [toNat_or_lane _ _ _ (by decide) (by omega), h2]
  rw [wordOfBytes, Option.some.injEq]
  apply BitVec.eq_of_toNat_eq
  rw [toNat_or_lane _ _ _ (by decide) (by omega), h1, BitVec.toNat_ofNat]
  omega

theorem busIndex_word (n : Nat) : busIndex (4 * n) 4 = some n := busIndex_eq_some.mpr ⟨rfl, rfl⟩

/-- Every bus access but one aligned word names no register. -/
theorem busIndex_eq_none {address size : Nat} (h : ¬(size = 4 ∧ address % 4 = 0)) : busIndex address size = none := by
  rw [busIndex, if_neg h]

theorem performMove_busRead_word (n : Nat) (s : State) :
    performMove (.busRead (4 * n) 4) s = .next (s.logRead (.bytes (wordToBytes (s.readRegIndex n)))) := by
  simp only [performMove, busIndex_word]

theorem performMove_busWrite_word {bytes : List Byte} {v : Word} (hl : bytes.length = 4)
    (hv : wordOfBytes bytes = some v) (n : Nat) (s : State) :
    performMove (.busWrite (4 * n) bytes) s = performMove (.writeReg n v) s := by
  simp only [performMove, hl, busIndex_word, hv]

theorem performMove_busRead_refused {address size : Nat} (h : ¬(size = 4 ∧ address % 4 = 0)) (s : State) :
    performMove (.busRead address size) s = .refused (.nonWordBusAccess address size) := by
  simp only [performMove, busIndex_eq_none h]

theorem performMove_busWrite_refused {address : Nat} {bytes : List Byte}
    (h : ¬(bytes.length = 4 ∧ address % 4 = 0)) (s : State) :
    performMove (.busWrite address bytes) s = .refused (.nonWordBusAccess address bytes.length) := by
  simp only [performMove, busIndex_eq_none h]

/-- Settles O10: the bytes of an aligned word are its digits to the base 256, lowest first. -/
theorem busMovesAreAlignedWordMoves : Obligations.BusMovesAreAlignedWordMoves := by
  unfold Obligations.BusMovesAreAlignedWordMoves
  exact fun s n a size b0 b1 b2 b3 bytes =>
    ⟨⟨_, _, _, _, _, performMove_busRead_word n s, rfl, toNat_eq_bytes _⟩,
      performMove_busWrite_word rfl (wordOfBytes_four b0 b1 b2 b3) n s,
      fun h => performMove_busRead_refused h s, fun h => performMove_busWrite_refused h s⟩

end Sys2Proof.Machine
end

section
/-! PROOFS. A table that does not fit a buffer is a SIZE_MISMATCH (O60); a LUTENC and a LUTDEC that end OK do not depend
on what they overwrite (O20). -/

namespace Sys2Proof.Machine

/-! ### SIZE_MISMATCH (60_exceptions.md R242, R245) -/

theorem SizeMismatchOnly.of_raise (s : State) (expected actual : Word) :
    SizeMismatchOnly s (s.raise (.sizeMismatch expected actual)) :=
  ⟨EndsWith.of_raise (f := .sizeMismatch expected actual) rfl, rfl⟩

/-- A fault does not end OK: its code is not 0. -/
theorem not_endsWith_raise (s : State) (f : OpFault) : ¬EndsWith s (s.raise f) 0 := fun h => by
  have h0 : f.code.toNat = 0 := (EndsWith.of_raise rfl).unique h
  have := f.code_range
  omega

/-- A LUTENC whose length is refused ends with SIZE_MISMATCH, whatever the launch. -/
theorem encodeLut_rejected {s : State} {sh : LutShape} {ident : Bool} (h : s.sourceRejected sh ident = true) :
    ∃ t, encodeLut sh ident s = .next t ∧ SizeMismatchOnly s t :=
  ⟨_, by rw [encodeLut, if_pos h], SizeMismatchOnly.of_raise s _ _⟩

/-- A LUTENC whose words do not fit `HLUT` ends with SIZE_MISMATCH, whether or not its length is accepted. -/
theorem encodeLut_not_fits {s : State} {sh : LutShape} (ident : Bool) (h : ¬EncodeFits s sh) :
    ∃ t, encodeLut sh ident s = .next t ∧ SizeMismatchOnly s t := by
  cases hr : s.sourceRejected sh ident with
  | true => exact encodeLut_rejected hr
  | false => exact encodeLut_misfit ((sourceRejected_eq_false s sh ident).mp hr) h

/-- `CLEN0` above the capacity is a length no shape accepts (R133). -/
theorem sourceRejected_of_clen0_gt {s : State} (sh : LutShape) (h : s.params.clutCap < s.clen0.toNat) :
    s.sourceRejected sh false = true := by
  simp [State.sourceRejected, h]

/-- A LUTDEC whose words or entries do not fit ends with SIZE_MISMATCH, whether or not its length is accepted. -/
theorem decodeLut_not_fits {s : State} {sh : LutShape} (h : ¬DecodeFits s sh) :
    ∃ t, decodeLut sh s = .next t ∧ SizeMismatchOnly s t := by
  by_cases hl : s.hlen.toNat = lutWords s.params.tables sh
  · exact decodeLut_misfit hl h
  · exact ⟨_, by rw [decodeLut, if_pos hl], SizeMismatchOnly.of_raise s _ _⟩

/-- A LUTCMP of a length above the capacity ends with SIZE_MISMATCH (43_equality.md R232). -/
theorem execLutcmp_not_fits {s : State} (h : s.params.clutCap < s.clen0.toNat ∨ s.params.clutCap < s.clen1.toNat) :
    ∃ t, execLutcmp s = .next t ∧ SizeMismatchOnly s t :=
  ⟨_, by rw [execLutcmp, if_pos h], SizeMismatchOnly.of_raise s _ _⟩

/-! ### Ending OK -/

/-- A LUTENC that ends OK passed its checks and stored its table. -/
theorem encodeLut_endsOk {sh : LutShape} {ident : Bool} {s t : State} (h : encodeLut sh ident s = .next t)
    (h0 : EndsWith s t 0) :
    s.sourceRejected sh ident = false ∧ s.tableFits sh = true ∧
      t = s.storeTable sh (packLut s.params.tables sh (s.sourceLen sh ident) (s.source sh ident)) := by
  rcases encodeLut_cases h with ⟨-, rfl⟩ | hok | ⟨-, -, rfl⟩
  · exact absurd h0 (not_endsWith_raise s _)
  · exact hok
  · exact absurd h0 (not_endsWith_raise s _)

/-- A LUTDEC that ends OK passed its checks and stored its entries. -/
theorem decodeLut_endsOk {sh : LutShape} {s t : State} (h : decodeLut sh s = .next t) (h0 : EndsWith s t 0) :
    s.hlen.toNat = lutWords s.params.tables sh ∧ s.tableFits sh = true ∧ s.entriesFit sh = true ∧
      t = s.storeEntries sh (unpackLut s.params.tables sh s.readHlutWord) := by
  rcases decodeLut_cases h with ⟨-, rfl⟩ | hok | ⟨-, -, _, _, rfl⟩
  · exact absurd h0 (not_endsWith_raise s _)
  · exact hok
  · exact absurd h0 (not_endsWith_raise s _)

/-- Settles O60: what does not fit faults, by the checks of each operation; what ends OK passed them. -/
theorem noOperationGoesBeyondACapacity : Obligations.NoOperationGoesBeyondACapacity := by
  unfold Obligations.NoOperationGoesBeyondACapacity
  simp only [exec_lutencOf, exec_lutdecOf]
  refine ⟨fun sh ident s => ⟨encodeLut_not_fits ident, fun h => encodeLut_rejected (sourceRejected_of_clen0_gt sh h),
    decodeLut_not_fits, fun t h h0 => ?encodeFits, fun t h h0 => ?decodeFits⟩, fun s => execLutcmp_not_fits⟩
  case encodeFits =>
    obtain ⟨-, hf, -⟩ := encodeLut_endsOk h h0
    exact tableFits_iff.mp hf
  case decodeFits =>
    obtain ⟨-, hf, he, -⟩ := decodeLut_endsOk h h0
    exact decodeFits_iff.mp (by rw [hf, he]; rfl)

/-! ### Independence of what is overwritten (20_memory.md R59) -/

/-- Two tables of the same words read the same, whatever `HLUT` and `HLEN` were before. -/
theorem storeTable_read_overwritten {s : State} {sh : LutShape} {words : List Word}
    (hf : words.length ≤ s.params.hlutCap) (other : Memory Word) (len : Word) {j : Nat} (hj : j < words.length) :
    (State.storeTable { s with hlut := other, hlen := len } sh words).readHlutWord j =
      (s.storeTable sh words).readHlutWord j := by
  have hw := List.getElem?_eq_getElem hj
  rw [storeTable_read hw (by simp only; omega), storeTable_read hw (by omega)]

/-- The same entries stored in `CLUT0` read the same, whatever `CLUT0` and `CLEN0` were before. -/
theorem storeEntries_read_overwritten {s : State} {sh : LutShape} {entries : List Entry}
    (hf : entries.length ≤ s.params.clutCap) (other : Memory Entry) (len : Word) {j : Nat} (hj : j < entries.length) :
    (State.storeEntries { s with clut0 := other, clen0 := len } sh entries).readEntry .clut0 j =
      (s.storeEntries sh entries).readEntry .clut0 j := by
  have he := List.getElem?_eq_getElem hj
  rw [storeEntries_read he (by simp only; omega), storeEntries_read he (by omega)]

/-- A LUTENC that ends OK does the same with any `HLUT` and `HLEN`: neither its checks nor its source read them. -/
theorem encodeLut_ignores_hlut {sh : LutShape} {ident : Bool} {s t : State} (h : encodeLut sh ident s = .next t)
    (h0 : EndsWith s t 0) (other : Memory Word) (len : Word) :
    ∃ t', encodeLut sh ident { s with hlut := other, hlen := len } = .next t' ∧ EndsWith s t' 0 ∧ t'.hlen = t.hlen ∧
      ∀ j, j < (s.columns sh).2.2 → t'.readHlutWord j = t.readHlutWord j := by
  obtain ⟨hr, hf, rfl⟩ := encodeLut_endsOk h h0
  refine ⟨_, encodeLut_ok (s := { s with hlut := other, hlen := len }) hr hf,
    EndsWith.of_finish (code := codeOk) (by decide) rfl, rfl, fun j hj => ?_⟩
  have hcap : lutWords s.params.tables sh ≤ s.params.hlutCap := of_decide_eq_true hf
  rw [State.columns, ← lutWords_eq] at hj
  exact storeTable_read_overwritten (by rwa [packLut_length]) other len (by rwa [packLut_length])

/-- A LUTDEC that ends OK does the same with any `CLUT0` and `CLEN0`: neither its checks nor its words read them. -/
theorem decodeLut_ignores_clut0 {sh : LutShape} {s t : State} (hp : s.params.wellFormed = true)
    (h : decodeLut sh s = .next t) (h0 : EndsWith s t 0) (other : Memory Entry) (len : Word) :
    ∃ t', decodeLut sh { s with clut0 := other, clen0 := len } = .next t' ∧ EndsWith s t' 0 ∧ t'.clen0 = t.clen0 ∧
      ∀ j, j < (s.columns sh).2.1 → t'.readEntry .clut0 j = t.readEntry .clut0 j := by
  obtain ⟨hl, hf, he, rfl⟩ := decodeLut_endsOk h h0
  refine ⟨_, decodeLut_ok (s := { s with clut0 := other, clen0 := len }) hl hf he,
    EndsWith.of_finish (code := codeOk) (by decide) rfl, rfl, fun j hj => ?_⟩
  have hcap : lutHwEntries s.params.tables sh ≤ s.params.clutCap := of_decide_eq_true he
  have hlen : 1 ≤ s.params.tables.i10p6 := Nat.le_of_lt (lutNeed_bounds hp .i10p6).1
  rw [State.columns, ← lutHwEntries_eq] at hj
  exact storeEntries_read_overwritten (by rwa [unpackLut_length hlen]) other len (by rwa [unpackLut_length hlen])

/-- The length a LUTDEC that ends OK gives `CLUT0` is the shape's hardware entry count. -/
theorem decodeLut_clen0 {sh : LutShape} {s t : State} (hp : s.params.wellFormed = true)
    (h : decodeLut sh s = .next t) (h0 : EndsWith s t 0) : t.clen0.toNat = (s.columns sh).2.1 := by
  obtain ⟨-, -, -, rfl⟩ := decodeLut_endsOk h h0
  obtain ⟨-, hn, -⟩ := lengths_lt hp sh
  rw [State.storeEntries_clen0, BitVec.toNat_ofNat, Nat.mod_eq_of_lt hn, lutHwEntries_eq, State.columns]

/-- Settles O20: run on the changed state, an operation that ended OK makes the same checks and stores the same table. -/
theorem encodeNeverReadsHardwareState : Obligations.EncodeNeverReadsHardwareState := by
  unfold Obligations.EncodeNeverReadsHardwareState
  simp only [exec_lutencOf, exec_lutdecOf]
  exact fun sh ident s t hp h0 => ⟨fun h => encodeLut_ignores_hlut h h0,
    fun h => ⟨decodeLut_clen0 hp h h0, decodeLut_ignores_clut0 hp h h0⟩⟩

end Sys2Proof.Machine
end

section
/-! PROOFS. Decoding a command word and encoding an instruction (O1): what the decoder's two tables hold, what each
outcome of the decoder says of the fields of the word, and the word of the fields. -/

namespace Sys2Proof.Machine

/-! ### The tables of `OP` and `SHAPE` (30_encoding.md R71 to R73) -/

/-- The `SHAPE` code of a shape (30_encoding.md R72). -/
def shapeCode : LutShape → BitVec 4
  | .l8 => 0
  | .i10p6 => 1
  | .p10 => 2
  | .s10 _ _ => 3
  | .ms124 => 4
  | .mono16 => 5
  | .dp _ => 6

/-- The `ARG` field of a shape (30_encoding.md R73). -/
def shapeArg : LutShape → BitVec 4
  | .s10 sz half => (half.bit ||| sz.bit).extractLsb' 16 4
  | .dp w => w.bit.extractLsb' 16 4
  | _ => 0

/-- The fields that name a shape are its code and its argument. -/
theorem fields_of_lutShapeOf {shape arg : BitVec 4} {sh : LutShape} (h : lutShapeOf shape arg = some sh) :
    shape = shapeCode sh ∧ arg = shapeArg sh := by
  have table : ∀ shape arg : BitVec 4, ∀ sh ∈ lutShapeOf shape arg, shape = shapeCode sh ∧ arg = shapeArg sh := by
    decide
  exact table _ _ _ h

/-- A `SHAPE` and an `ARG` name a shape when the code is one of R72 and no bit is set that the shape does not define. -/
theorem lutShapeOf_isSome : ∀ shape arg : BitVec 4, (lutShapeOf shape arg).isSome =
    (shape.toNat ≤ 6 && (arg == 0 || (shape == 3 && arg.toNat < 4) || (shape == 6 && arg.toNat < 2))) := by
  decide

/-- The fields of a LUTENC word. -/
theorem fieldsOf_encode_lutencOf (ident : Bool) (sh : LutShape) :
    fieldsOf (encode (lutencOf ident sh)) = ⟨0x10, shapeCode sh, shapeArg sh, 0, BitVec.ofBool ident, 0⟩ := by
  rcases sh with _ | _ | _ | ⟨⟨⟩, ⟨⟩⟩ | _ | _ | ⟨⟨⟩⟩ <;> cases ident <;> rfl

/-- The fields of a LUTDEC word. -/
theorem fieldsOf_encode_lutdecOf (sh : LutShape) :
    fieldsOf (encode (lutdecOf sh)) = ⟨0x11, shapeCode sh, shapeArg sh, 0, 0, 0⟩ := by
  rcases sh with _ | _ | _ | ⟨⟨⟩, ⟨⟩⟩ | _ | _ | ⟨⟨⟩⟩ <;> rfl

/-! ### The word of the fields (30_encoding.md R70) -/

/-- A word is its fields put side by side. -/
theorem toNat_eq_fields (w : Word) :
    w.toNat = 2 ^ 24 * (fieldsOf w).op.toNat + 2 ^ 20 * (fieldsOf w).shape.toNat + 2 ^ 16 * (fieldsOf w).arg.toNat +
      2 ^ 9 * (fieldsOf w).rsvHi.toNat + 2 ^ 8 * (fieldsOf w).ident.toNat + (fieldsOf w).rsvLo.toNat := by
  simp only [fieldsOf, toNat_field]
  omega

/-- Two words with the same fields are the same word. -/
theorem fieldsOf_injective {w v : Word} (h : fieldsOf w = fieldsOf v) : w = v := by
  rw [← BitVec.toNat_inj, toNat_eq_fields, toNat_eq_fields, h]

/-! ### The five tests, as the decoder makes them (30_encoding.md R75) -/

theorem reservedClear_iff (f : CommandFields) : f.reservedClear = true ↔ ¬(f.rsvHi ≠ 0 ∨ f.rsvLo ≠ 0) := by
  simp [CommandFields.reservedClear]

/-- `OP` is known when the table of `OP` values has it. -/
theorem opKnown_eq (f : CommandFields) : f.opKnown = (opCodeOf f.op).isSome := by
  unfold CommandFields.opKnown opCodeOf
  split_ifs <;> simp_all

section
variable {f : CommandFields} {op : OpCode} (h : opCodeOf f.op = some op)
include h

/-- An `OP` with a name is that name's code (30_encoding.md R71). -/
theorem op_eq_iff : (f.op = 0x10 ↔ op = .lutenc) ∧ (f.op = 0x11 ↔ op = .lutdec) := by
  unfold opCodeOf at h
  split_ifs at h <;> cases h <;> simp [*]

theorem opIsLut_eq : f.opIsLut = (plainOf op).isNone := by
  obtain ⟨h10, h11⟩ := op_eq_iff h
  rw [CommandFields.opIsLut]
  cases op <;> simp_all [plainOf]

theorem operandAllowed_iff : f.operandAllowed = true ↔ ¬((plainOf op).isSome ∧ (f.shape ≠ 0 ∨ f.arg ≠ 0)) := by
  rw [CommandFields.operandAllowed, opIsLut_eq h]
  cases plainOf op <;> simp

theorem identAllowed_iff : f.identAllowed = true ↔ ¬(op ≠ .lutenc ∧ f.ident ≠ 0) := by
  rw [CommandFields.identAllowed, Bool.or_eq_true, beq_iff_eq, beq_iff_eq, (op_eq_iff h).1]
  simp [or_iff_not_imp_left]

/-- The fifth test asks that the fields name a shape where the `OP` takes one. -/
theorem shapeArgDefined_iff : f.shapeArgDefined = true ↔ (plainOf op).isSome ∨ (lutShapeOf f.shape f.arg).isSome := by
  rw [CommandFields.shapeArgDefined, opIsLut_eq h, lutShapeOf_isSome, ← Bool.or_eq_true, Option.not_isNone]

end

/-- The error of the first of the five tests that fails on the fields. -/
def firstFailing (f : CommandFields) : Option DecodeError :=
  if ¬f.reservedClear then some .reservedBits
  else if ¬f.opKnown then some .unknownOp
  else if ¬f.operandAllowed then some .operandOnPlainOp
  else if ¬f.identAllowed then some .identOnNonEncode
  else if ¬f.shapeArgDefined then some .shapeOrArg
  else none

/-- A test is the first failing one when the tests before it pass and it does not. -/
theorem firstFailing_eq_some_iff (f : CommandFields) (e : DecodeError) : firstFailing f = some e ↔
    match e with
    | .reservedBits => ¬f.reservedClear
    | .unknownOp => f.reservedClear ∧ ¬f.opKnown
    | .operandOnPlainOp => f.reservedClear ∧ f.opKnown ∧ ¬f.operandAllowed
    | .identOnNonEncode => f.reservedClear ∧ f.opKnown ∧ f.operandAllowed ∧ ¬f.identAllowed
    | .shapeOrArg => f.reservedClear ∧ f.opKnown ∧ f.operandAllowed ∧ f.identAllowed ∧ ¬f.shapeArgDefined := by
  unfold firstFailing
  cases e <;> split_ifs <;> simp [*]

/-- No test fails when the five pass. -/
theorem firstFailing_eq_none_iff (f : CommandFields) : firstFailing f = none ↔
    f.reservedClear ∧ f.opKnown ∧ f.operandAllowed ∧ f.identAllowed ∧ f.shapeArgDefined := by
  unfold firstFailing
  split_ifs <;> simp [*]

/-- The decoder answers an error exactly when a test fails, and names the first one. -/
theorem decodeFields_eq_error_iff (f : CommandFields) (e : DecodeError) :
    decodeFields f = .error e ↔ firstFailing f = some e := by
  unfold decodeFields firstFailing
  by_cases h1 : f.rsvHi ≠ 0 ∨ f.rsvLo ≠ 0
  · simp only [reservedClear_iff, not_not, h1, if_true, Except.error.injEq, Option.some.injEq]
  rw [if_neg h1, if_neg (not_not.mpr ((reservedClear_iff f).mpr h1)), opKnown_eq]
  cases ho : opCodeOf f.op with
  | none => simp
  | some op =>
    simp only [operandAllowed_iff ho, identAllowed_iff ho, shapeArgDefined_iff ho, not_not, Option.isSome_some,
      not_true_eq_false, if_false]
    split
    · simp
    · split
      · simp
      · cases plainOf op <;> cases lutShapeOf f.shape f.arg <;> simp

/-- The decoder of words names the first test that fails on the fields (30_encoding.md R75). -/
theorem decode_eq_error_iff (w : Word) (e : DecodeError) : decode w = .error e ↔ firstFailing (fieldsOf w) = some e :=
  decodeFields_eq_error_iff _ e

/-- An `OP` that takes no shape is, with zeros below it, the word of its instruction. -/
theorem fieldsOf_encode_plain {op : BitVec 8} {opc : OpCode} {i : Instr} (ho : opCodeOf op = some opc)
    (hp : plainOf opc = some i) : fieldsOf (encode i) = ⟨op, 0, 0, 0, 0, 0⟩ := by
  unfold opCodeOf at ho
  split_ifs at ho <;> cases ho <;> cases hp <;> subst op <;> rfl

/-- The `ID` bit is the flag it is read as (30_encoding.md R74). -/
theorem ofBool_beq_one (b : BitVec 1) : BitVec.ofBool (b == 1) = b := by
  revert b
  decide

/-- The word of a decoded instruction has the fields it was decoded from. -/
theorem fieldsOf_encode_of_decodeFields {f : CommandFields} {i : Instr} (h : decodeFields f = .ok i) :
    fieldsOf (encode i) = f := by
  obtain ⟨op, shape, arg, rsvHi, ident, rsvLo⟩ := f
  simp only [decodeFields] at h
  split at h
  · cases h
  next hr =>
  obtain ⟨rfl, rfl⟩ : rsvHi = 0 ∧ rsvLo = 0 := by simpa using hr
  split at h
  · cases h
  next opc ho =>
  split at h
  · cases h
  next hs =>
  split at h
  · cases h
  next hi =>
  cases hp : plainOf opc with
  | some j =>
    obtain ⟨rfl, rfl⟩ : shape = 0 ∧ arg = 0 := by simpa [hp] using hs
    obtain rfl : ident = 0 := by
      by_contra hne
      exact hi ⟨fun hl => by simp [hl, plainOf] at hp, hne⟩
    simp only [hp, Except.ok.injEq] at h
    rw [← h, fieldsOf_encode_plain ho hp]
  | none =>
    obtain ⟨h10, h11⟩ := op_eq_iff (f := ⟨op, shape, arg, 0, ident, 0⟩) ho
    cases hl : lutShapeOf shape arg with
    | none => simp [hp, hl] at h
    | some sh =>
      obtain ⟨rfl, rfl⟩ := fields_of_lutShapeOf hl
      simp only [hp, hl, Except.ok.injEq] at h
      subst h
      cases opc with
      | ctmenc | ctmdec | toposel | lutcmp => cases hp
      | lutenc =>
        obtain rfl : op = 0x10 := h10.mpr rfl
        rw [if_pos rfl, fieldsOf_encode_lutencOf, ofBool_beq_one]
      | lutdec =>
        obtain rfl : op = 0x11 := h11.mpr rfl
        obtain rfl : ident = 0 := by simpa using hi
        rw [if_neg (by decide), fieldsOf_encode_lutdecOf]

/-! ### Decoding and encoding -/

/-- Every instruction is decoded from its word. -/
theorem decode_encode (i : Instr) : decode (encode i) = .ok i := by
  cases i using Instr.cases_shape with
  | ctmenc | ctmdec | toposel | lutcmp => rfl
  | lutenc ident sh => rcases sh with _ | _ | _ | ⟨⟨⟩, ⟨⟩⟩ | _ | _ | ⟨⟨⟩⟩ <;> cases ident <;> rfl
  | lutdec sh => rcases sh with _ | _ | _ | ⟨⟨⟩, ⟨⟩⟩ | _ | _ | ⟨⟨⟩⟩ <;> rfl

/-- Settles O1: the word of an instruction decodes to it, and a word that decodes has the fields of the instruction's
word. -/
theorem decodeAndEncodeAreInverse : Obligations.DecodeAndEncodeAreInverse := by
  unfold Obligations.DecodeAndEncodeAreInverse
  intro w i
  constructor
  · exact fun h => fieldsOf_injective (fieldsOf_encode_of_decodeFields h)
  · rintro rfl
    exact decode_encode i

end Sys2Proof.Machine
end

section
/-! PROOFS. The rows of the opcode map and the five tests on the digits of a word (O2, O3), and the fixed words (O4). -/

namespace Sys2Proof.Machine

/-! ### The rows of the opcode map (30_encoding.md R76) -/

/-- The word of an instruction selects the instruction's row. -/
theorem selects_encode (i : Instr) : (rowOf i).selects (encode i) = true := by
  have law : Laws.OpcodeRow.Statement i := by
    cases i with
    | ctmenc => exact Laws.OpcodeRow.ctmenc
    | ctmdec => exact Laws.OpcodeRow.ctmdec
    | lutencL8 ident => exact Laws.OpcodeRow.lutencL8 ident
    | lutencI10p6 ident => exact Laws.OpcodeRow.lutencI10p6 ident
    | lutencP10 ident => exact Laws.OpcodeRow.lutencP10 ident
    | lutencS10 sz half ident => exact Laws.OpcodeRow.lutencS10 sz half ident
    | lutencMs124 ident => exact Laws.OpcodeRow.lutencMs124 ident
    | lutencMono16 ident => exact Laws.OpcodeRow.lutencMono16 ident
    | lutencDp w ident => exact Laws.OpcodeRow.lutencDp w ident
    | lutdecL8 => exact Laws.OpcodeRow.lutdecL8
    | lutdecI10p6 => exact Laws.OpcodeRow.lutdecI10p6
    | lutdecP10 => exact Laws.OpcodeRow.lutdecP10
    | lutdecS10 sz half => exact Laws.OpcodeRow.lutdecS10 sz half
    | lutdecMs124 => exact Laws.OpcodeRow.lutdecMs124
    | lutdecMono16 => exact Laws.OpcodeRow.lutdecMono16
    | lutdecDp w => exact Laws.OpcodeRow.lutdecDp w
    | toposel => exact Laws.OpcodeRow.toposel
    | lutcmp => exact Laws.OpcodeRow.lutcmp
  exact law.1

/-- A word that decodes selects the row of its instruction. -/
theorem selects_of_decode {w : Word} {i : Instr} (h : decode w = .ok i) : (rowOf i).selects w = true := by
  rw [← (decodeAndEncodeAreInverse w i).mp h]
  exact selects_encode i

/-- The bits that no row leaves free: all but `ID` [8], `SZ` or `W` [16] and `HALF` [17] (30_encoding.md R73, R74). -/
def fixedBits : Word := 0xFFFCFEFF

/-- A row matches the fixed bits at least, and its pattern has no other bit. -/
theorem rowOf_fixedBits (i : Instr) :
    (rowOf i).mask &&& fixedBits = fixedBits ∧ (rowOf i).pattern &&& fixedBits = (rowOf i).pattern := by
  cases i <;> simp only [rowOf] <;> exact ⟨rfl, rfl⟩

/-- The fixed bits of a word are the pattern of any row it selects. -/
theorem pattern_of_selects {i : Instr} {w : Word} (h : (rowOf i).selects w = true) :
    w &&& fixedBits = (rowOf i).pattern := by
  obtain ⟨hm, hp⟩ := rowOf_fixedBits i
  have hs : w &&& (rowOf i).mask = (rowOf i).pattern := by simpa [OpcodeRow.selects] using h
  rw [← hp, ← hs, BitVec.and_assoc, hm]

/-- The pattern of a row is itself a word of an instruction of that row. -/
theorem pattern_decodes (i : Instr) : ∃ k, decode (rowOf i).pattern = .ok k ∧ rowOf k = rowOf i := by
  cases i <;> simp only [rowOf] <;> exact ⟨_, rfl, rfl⟩

/-- No word selects two rows. -/
theorem row_unique {i j : Instr} {w : Word} (hi : (rowOf i).selects w = true) (hj : (rowOf j).selects w = true) :
    rowOf j = rowOf i := by
  obtain ⟨k, hk, hki⟩ := pattern_decodes i
  obtain ⟨l, hl, hlj⟩ := pattern_decodes j
  rw [← pattern_of_selects hi] at hk
  rw [← pattern_of_selects hj, hk, Except.ok.injEq] at hl
  rw [← hlj, ← hl, hki]

/-- A row never selects the all-zero word: no pattern is 0 (30_encoding.md R77). -/
theorem pattern_ne_zero (i : Instr) : (rowOf i).pattern ≠ 0 := by
  obtain ⟨k, hk, -⟩ := pattern_decodes i
  intro h0
  rw [h0] at hk
  cases hk

/-! ### Words that are refused (60_exceptions.md R246) -/

/-- A word the decoder refuses ends with ILLEGAL_COMMAND. -/
theorem illegalAt_of_error {w : Word} {e : DecodeError} (h : decode w = .error e) (s : State) : IllegalAt w s :=
  ⟨_, by rw [performMove_writeReg_cmd, runCommand_illegal fun i hi => by rw [h] at hi; cases hi],
    EndsWith.of_raise (f := .illegalCommand) rfl, rfl⟩

/-- Settles O2: a word that decodes would select its instruction's row; a row that selects 0 would have pattern 0. -/
theorem wordsWithoutARowAreIllegal : Obligations.WordsWithoutARowAreIllegal := by
  unfold Obligations.WordsWithoutARowAreIllegal
  refine ⟨fun w hw => ?_, fun i => ?_⟩
  · cases hd : decode w with
    | error e => exact ⟨⟨e, rfl⟩, illegalAt_of_error hd⟩
    | ok i => exact absurd (selects_of_decode hd) (by simp [hw i])
  · rw [Bool.eq_false_iff]
    intro hs
    exact pattern_ne_zero i ((pattern_of_selects hs).symm.trans (BitVec.zero_and))

/-! ### The five tests on the digits of the word (30_encoding.md R70, R75) -/

section
variable (w : Word)

theorem reservedClear_digits :
    (fieldsOf w).reservedClear = true ↔ w.toNat / 2 ^ 9 % 128 = 0 ∧ w.toNat % 256 = 0 := by
  simp only [CommandFields.reservedClear, Bool.and_eq_true, beq_iff_eq, ← BitVec.toNat_inj, fieldsOf, toNat_field,
    Nat.pow_zero, Nat.div_one]
  rfl

/-- A value of `OP`, read off the word. -/
theorem op_digits (k : BitVec 8) : (fieldsOf w).op = k ↔ w.toNat / 2 ^ 24 = k.toNat := by
  rw [← BitVec.toNat_inj, fieldsOf, toNat_field]
  omega

theorem opKnown_digits : (fieldsOf w).opKnown = true ↔
    w.toNat / 2 ^ 24 = 0x01 ∨ w.toNat / 2 ^ 24 = 0x02 ∨ w.toNat / 2 ^ 24 = 0x10 ∨ w.toNat / 2 ^ 24 = 0x11 ∨
      w.toNat / 2 ^ 24 = 0x20 ∨ w.toNat / 2 ^ 24 = 0x21 := by
  simp only [CommandFields.opKnown, Bool.or_eq_true, beq_iff_eq, op_digits, or_assoc]
  rfl

theorem opIsLut_digits :
    (fieldsOf w).opIsLut = true ↔ w.toNat / 2 ^ 24 = 0x10 ∨ w.toNat / 2 ^ 24 = 0x11 := by
  simp only [CommandFields.opIsLut, Bool.or_eq_true, beq_iff_eq, op_digits]
  rfl

theorem operandAllowed_digits : (fieldsOf w).operandAllowed = true ↔
    (w.toNat / 2 ^ 24 = 0x10 ∨ w.toNat / 2 ^ 24 = 0x11) ∨ w.toNat / 2 ^ 16 % 256 = 0 := by
  have hs : (fieldsOf w).shape = 0 ∧ (fieldsOf w).arg = 0 ↔ w.toNat / 2 ^ 16 % 256 = 0 := by
    simp only [fieldsOf, ← BitVec.toNat_inj, toNat_field, BitVec.ofNat_eq_ofNat, BitVec.toNat_ofNat]
    omega
  simp only [CommandFields.operandAllowed, Bool.or_eq_true, Bool.and_eq_true, beq_iff_eq, opIsLut_digits, hs]

theorem identAllowed_digits :
    (fieldsOf w).identAllowed = true ↔ w.toNat / 2 ^ 24 = 0x10 ∨ w.toNat / 2 ^ 8 % 2 = 0 := by
  simp only [CommandFields.identAllowed, Bool.or_eq_true, beq_iff_eq, op_digits]
  rw [← BitVec.toNat_inj (x := (fieldsOf w).ident), fieldsOf, toNat_field]
  rfl

theorem shapeArgDefined_digits : (fieldsOf w).shapeArgDefined = true ↔
    (w.toNat / 2 ^ 24 = 0x10 ∨ w.toNat / 2 ^ 24 = 0x11 → w.toNat / 2 ^ 20 % 16 ≤ 6 ∧
      (w.toNat / 2 ^ 16 % 16 = 0 ∨ (w.toNat / 2 ^ 20 % 16 = 3 ∧ w.toNat / 2 ^ 16 % 16 < 4) ∨
        (w.toNat / 2 ^ 20 % 16 = 6 ∧ w.toNat / 2 ^ 16 % 16 < 2))) := by
  have shape : (fieldsOf w).shape.toNat = w.toNat / 2 ^ 20 % 16 := toNat_field w 20 4
  have arg : (fieldsOf w).arg.toNat = w.toNat / 2 ^ 16 % 16 := toNat_field w 16 4
  simp only [CommandFields.shapeArgDefined, Bool.or_eq_true, Bool.and_eq_true, Bool.not_eq_true', ← Bool.not_eq_true,
    decide_eq_true_eq, beq_iff_eq, opIsLut_digits, ← BitVec.toNat_inj, shape, arg, or_assoc, imp_iff_not_or]
  rfl

end

/-- A word that passes the five tests decodes. -/
theorem decode_of_firstFailing_none {w : Word} (h : firstFailing (fieldsOf w) = none) : ∃ i, decode w = .ok i := by
  cases hd : decode w with
  | ok i => exact ⟨i, rfl⟩
  | error e =>
    rw [(decode_eq_error_iff w e).mp hd] at h
    cases h

theorem illegalAt_of_firstFailing {w : Word} (h : firstFailing (fieldsOf w) ≠ none) (s : State) : IllegalAt w s := by
  obtain ⟨e, he⟩ := Option.ne_none_iff_exists'.mp h
  exact illegalAt_of_error ((decode_eq_error_iff w e).mpr he) s

/-- Settles O3: the decoder names the first failing test on the fields, each test is the one on the digits, and the row
a passing word selects is its instruction's. -/
theorem decodeNamesTheFirstFailingTest : Obligations.DecodeNamesTheFirstFailingTest := by
  unfold Obligations.DecodeNamesTheFirstFailingTest
  intro w
  simp only [← reservedClear_digits, ← opKnown_digits, ← operandAllowed_digits, ← identAllowed_digits,
    ← shapeArgDefined_digits, ← firstFailing_eq_none_iff, decode_eq_error_iff]
  refine ⟨firstFailing_eq_some_iff _ .reservedBits, firstFailing_eq_some_iff _ .unknownOp,
    firstFailing_eq_some_iff _ .operandOnPlainOp, firstFailing_eq_some_iff _ .identOnNonEncode,
    firstFailing_eq_some_iff _ .shapeOrArg, illegalAt_of_firstFailing, fun h => ?_⟩
  obtain ⟨i, hi⟩ := decode_of_firstFailing_none h
  exact ⟨i, hi, selects_of_decode hi, fun j => row_unique (selects_of_decode hi)⟩

/-- Settles O4: each of the eleven words is the word of its instruction. -/
theorem opcodeMapWordsDecode : Obligations.OpcodeMapWordsDecode := by
  unfold Obligations.OpcodeMapWordsDecode
  simp only [decodeAndEncodeAreInverse _ _]
  exact ⟨rfl, rfl, rfl, rfl, rfl, rfl, rfl, rfl, rfl, rfl, rfl⟩

end Sys2Proof.Machine
end

section
/-! PROOFS. The listings of commands (O5). -/

namespace Sys2Proof

/-- In a table whose keys differ, a lookup finds exactly the pairs of the table. -/
theorem lookup_eq_some_iff_mem {α β : Type} [BEq α] [LawfulBEq α] {table : List (α × β)}
    (h : (table.map Prod.fst).Nodup) (k : α) (b : β) : table.lookup k = some b ↔ (k, b) ∈ table := by
  rw [List.lookup_eq_some_iff]
  constructor
  · rintro ⟨l₁, l₂, rfl, -⟩
    simp
  · intro hm
    obtain ⟨l₁, l₂, rfl⟩ := List.append_of_mem hm
    refine ⟨l₁, l₂, rfl, fun p hp => ?_⟩
    rw [List.map_append, List.nodup_append] at h
    simpa using (h.2.2 p.1 (List.mem_map_of_mem hp) k (by simp)).symm

theorem LutShape.mem_all (sh : LutShape) : sh ∈ LutShape.all := by
  rcases sh with _ | _ | _ | ⟨⟨⟩, ⟨⟩⟩ | _ | _ | ⟨⟨⟩⟩ <;> decide

theorem Instr.mem_all (i : Instr) : i ∈ Instr.all := by
  cases i using Machine.Instr.cases_shape with
  | ctmenc | ctmdec | toposel | lutcmp => decide
  | lutenc ident sh => cases ident <;> simp [Instr.all, List.mem_map_of_mem, LutShape.mem_all]
  | lutdec sh => simp [Instr.all, List.mem_map_of_mem, LutShape.mem_all]

/-- The texts that are commands, the listings and the spellings of `LUTID`, are all different. -/
theorem spellings_nodup :
    (((Instr.all.map fun i => (i.spelling, i)) ++ pseudoSpellings).map Prod.fst).Nodup := by decide

/-- A text is a command when it is an instruction's listing or another spelling of one (30_encoding.md R78, R79). -/
theorem assemble_eq_some_iff (text : String) (i : Instr) : assemble text = some i ↔
    text = i.spelling ∨ ∃ sh, text = "LUTID." ++ sh.spelling ∧ i = lutencOf true sh := by
  rw [assemble, lookup_eq_some_iff_mem spellings_nodup, List.mem_append]
  simp only [pseudoSpellings, List.mem_map, Prod.mk.injEq]
  constructor
  · rintro (⟨j, -, rfl, rfl⟩ | ⟨sh, -, rfl, rfl⟩)
    · exact .inl rfl
    · exact .inr ⟨sh, rfl, rfl⟩
  · rintro (rfl | ⟨sh, rfl, rfl⟩)
    · exact .inl ⟨i, i.mem_all, rfl, rfl⟩
    · exact .inr ⟨sh, sh.mem_all, rfl, rfl⟩

theorem spelling_lutencOf_ident (sh : LutShape) :
    (lutencOf true sh).spelling = "LUTENC." ++ sh.spelling ++ ".ID" := by
  cases sh <;> rfl

/-- Settles O5: the table of texts has no two the same, so a lookup finds its pairs and no other text. -/
theorem listingSpellsEveryInstruction : Obligations.ListingSpellsEveryInstruction := by
  unfold Obligations.ListingSpellsEveryInstruction
  refine ⟨fun i => (assemble_eq_some_iff _ i).mpr (.inl rfl),
    fun sh => ⟨spelling_lutencOf_ident sh, (assemble_eq_some_iff _ _).mpr (.inr ⟨sh, rfl, rfl⟩)⟩, ?_,
    fun text i => (assemble_eq_some_iff text i).mp⟩
  decide

end Sys2Proof
end

section
/-! PROOFS. Coefficients as values: the magnitude and sign of the model against the real value a claim speaks of, the
limited-range pre-pass (O30). -/

namespace Sys2Proof.Machine

/-! ### Sign and magnitude (40_codec.md R93) -/

theorem sgn_eq (c : Coef) : sgn c = c.getLsbD 63 := BitVec.msb_eq_getLsbD_last c

/-- The magnitude is that of the value. -/
theorem mag_eq_natAbs (rep : CtmRepr) (c : Coef) : mag rep c = (coefValue rep c).natAbs := by
  cases rep with
  | twos =>
    have hc := c.isLt
    simp only [mag, coefValue, BitVec.toInt_eq_msb_cond]
    split <;> omega
  | signmag =>
    simp only [mag, coefValue]
    split <;> omega

/-- Under `signmag` the sign bit is the sign, whatever the magnitude: a negative zero stays negative. -/
theorem getLsbD_join_signmag (neg : Bool) (a : Nat) : (join .signmag neg a).getLsbD 63 = neg := by
  have h : a % 2 ^ 63 < 2 ^ 63 := Nat.mod_lt _ (Nat.two_pow_pos _)
  rw [join, BitVec.getLsbD_or, getLsbD_flag, BitVec.getLsbD_ofNat, Nat.testBit_lt_two_pow h]
  simp

theorem toNat_join_signmag_mod (neg : Bool) {a : Nat} (h : a < 2 ^ 63) : (join .signmag neg a).toNat % 2 ^ 63 = a := by
  have hor : (join .signmag neg a).toNat = neg.toNat * 2 ^ 63 + a := by
    rw [join, BitVec.toNat_or, toNat_flag neg 63 (by decide), Nat.mod_eq_of_lt h, BitVec.toNat_ofNat,
      Nat.mod_eq_of_lt (by omega), ← Nat.shiftLeft_eq, Nat.shiftLeft_add_eq_or_of_lt h]
  omega

/-- Joining a sign and a magnitude makes the coefficient of that value. -/
theorem coefValue_join (rep : CtmRepr) (neg : Bool) {a : Nat} (h : a < 2 ^ 63) :
    coefValue rep (join rep neg a) = (if neg then -1 else 1) * (a : Int) := by
  cases rep with
  | twos =>
    simp only [coefValue, join, BitVec.toInt_eq_toNat_cond]
    cases neg <;> simp only [Bool.false_eq_true, if_true, if_false, BitVec.toNat_ofNat] <;> split <;> omega
  | signmag =>
    simp only [coefValue, getLsbD_join_signmag, toNat_join_signmag_mod neg h]
    cases neg <;> simp

/-! ### The limited-range pre-pass (40_codec.md R94, R95) -/

theorem limcomp_eq (ratio : BitVec 32) (maxMag a : Nat) :
    limcomp ratio maxMag a = min a (maxMag * 2 ^ 32 - 1) / 4 * ratio.toNat / 2 ^ 30 := by
  simp only [limcomp, prepassBound, ONE, Nat.shiftRight_eq_div_pow, Nat.reducePow]

theorem prepassRuns_iff (p : Profile) (cfg : BitVec 7) :
    prepassRuns p cfg = true ↔ p.limCsc = true ∧ cfg.getLsbD 5 = true := by
  rw [prepassRuns, cfgLimited, Bool.and_eq_true]

/-- The magnitude CTMENC encodes is the one claims speak of. -/
theorem inputMag_eq (s : State) (p : Profile) (c : Coef) : s.inputMag p c = encodedMagnitude s p c := by
  simp only [State.inputMag, encodedMagnitude, prepassRuns_iff, limcomp_eq, mag_eq_natAbs]

/-- The ratio is below 4 in units of 2^-30, so it multiplies back no more than the shift by two divided away. -/
theorem limcomp_le_min (ratio : BitVec 32) (maxMag a : Nat) :
    limcomp ratio maxMag a ≤ min a (maxMag * 2 ^ 32 - 1) := by
  rw [limcomp_eq]
  generalize min a (maxMag * 2 ^ 32 - 1) = x
  calc x / 4 * ratio.toNat / 2 ^ 30 ≤ x / 4 * 2 ^ 32 / 2 ^ 30 := by gcongr; exact ratio.isLt.le
    _ ≤ x := by omega

theorem limcomp_mono (ratio : BitVec 32) (maxMag : Nat) {a b : Nat} (h : a ≤ b) :
    limcomp ratio maxMag a ≤ limcomp ratio maxMag b := by
  rw [limcomp_eq, limcomp_eq]
  gcongr

/-- Settles O30: the pre-pass is at most the clamped magnitude and monotone; the values of R95 are computed, the last
one at the clamp. -/
theorem limitedRangeNeverIncreasesAMagnitude : Obligations.LimitedRangeNeverIncreasesAMagnitude := by
  unfold Obligations.LimitedRangeNeverIncreasesAMagnitude
  refine ⟨fun ratio maxMag a b => ?_, by decide, by decide, by decide, by decide, fun a ha => ?_⟩
  · obtain ⟨h1, h2⟩ := Nat.le_min.mp (limcomp_le_min ratio maxMag a)
    exact ⟨h1, h2, limcomp_mono ratio maxMag⟩
  · rw [limcomp_eq, Nat.min_eq_right ha]
    rfl

end Sys2Proof.Machine
end

section
/-! PROOFS. The coefficient formats on magnitudes and words: the band of a magnitude, how far the rounded magnitude is
from it, the fields of an encoded word, and that encoding a decoded word gives the word back (O27). -/

namespace Sys2Proof.Machine

/-! ### The band table (40_codec.md R97) -/

/-- The row of the band table that states a band. -/
def Band.row : Band → BandRow
  | .toEighth => ⟨0, 0x20000000, 12, 3⟩
  | .toQuarter => ⟨0x20000000, 0x40000000, 11, 2⟩
  | .toHalf => ⟨0x40000000, 0x80000000, 10, 1⟩
  | .toOne => ⟨0x80000000, 0x100000000, 9, 0⟩
  | .toTwo => ⟨0x100000000, 0x200000000, 8, 7⟩
  | .toFour => ⟨0x200000000, 0x400000000, 7, 6⟩

theorem Band.row_mem (b : Band) : b.row ∈ bandRows := by cases b <;> decide

@[simp] theorem Band.row_fbits (b : Band) : b.row.fbits = b.fbits := by cases b <;> rfl

@[simp] theorem Band.row_exp (b : Band) : b.row.exp = b.code.toNat := by cases b <;> rfl

/-- The bands are disjoint and cover every clamped magnitude. -/
theorem bandOf_eq_iff {a : Nat} (h : a < 2 ^ 34) (b : Band) : bandOf a = b ↔ b.row.low ≤ a ∧ a < b.row.high := by
  simp only [bandOf]
  cases b <;> simp only [Band.row] <;> split_ifs <;> simp only [true_iff, false_iff] <;> omega

theorem fpClamped_lt (a : Nat) : fpClamped a < 2 ^ 34 := by
  rw [fpClamped]
  omega

theorem inBand_bandOf {a : Nat} (h : a < 2 ^ 34) : InBand (bandOf a).row a :=
  ⟨(bandOf a).row_mem, (bandOf_eq_iff h _).mp rfl⟩

/-! ### Rounding (40_codec.md R99, R100) -/

theorem fpRounded_eq (a : Nat) : fpRounded a = (bandOf a).row.rounded a := by
  rw [fpRounded, BandRow.rounded, Nat.shiftRight_eq_div_pow, Band.row_fbits]

/-- A quotient rounded half up is within half a step. -/
theorem within_half_of_round (a half : Nat) (h : 0 < half) :
    within half ((a + half) / (2 * half) * (2 * half)) a := by
  have h1 := Nat.div_mul_le_self (a + half) (2 * half)
  have h2 := Nat.lt_div_mul_add (a := a + half) (b := 2 * half) (by omega)
  constructor <;> omega

/-- The magnitude that the mantissa of a magnitude stands for (40_codec.md R102). -/
def fpQuantised (a : Nat) : Nat := fpMantissa a * 2 ^ (32 - (bandOf a).fbits)

/-- A band's ULP is twice its rounding constant, and its top is 512 ULP. -/
theorem Band.ulp (b : Band) :
    2 ^ (32 - b.fbits) = 2 * 2 ^ (31 - b.fbits) ∧ b.row.high = 512 * 2 ^ (32 - b.fbits) := by
  cases b <;> exact ⟨rfl, rfl⟩

/-- A mantissa that needs no clamp is within half an ULP. -/
theorem fpQuantised_within_half {a : Nat} (h : a < 2 ^ 34) (hr : fpRounded a ≠ 512) :
    within (2 ^ (31 - (bandOf a).fbits)) (fpQuantised a) a := by
  have hm : fpMantissa a = fpRounded a := by
    have := fpRounded_le (a := a) (by simp only [fpBound, ONE]; omega)
    rw [fpMantissa]
    omega
  rw [fpQuantised, hm, fpRounded, Nat.shiftRight_eq_div_pow, (bandOf a).ulp.1]
  exact within_half_of_round a _ (Nat.two_pow_pos _)

/-- Every mantissa is less than one ULP away: the clamp acts on the last half ULP of the band only. -/
theorem fpQuantised_within {a : Nat} (h : a < 2 ^ 34) :
    within (2 ^ (32 - (bandOf a).fbits) - 1) (fpQuantised a) a := by
  have hU := (bandOf a).ulp.1
  have hpos := Nat.two_pow_pos (31 - (bandOf a).fbits)
  by_cases hr : fpRounded a = 512
  · have hlt := ((bandOf_eq_iff h _).mp rfl).2
    rw [(bandOf a).ulp.2] at hlt
    have hge : 512 * 2 ^ (32 - (bandOf a).fbits) ≤ a + 2 ^ (31 - (bandOf a).fbits) := by
      rw [← Nat.le_div_iff_mul_le (Nat.two_pow_pos _), ← Nat.shiftRight_eq_div_pow]
      exact hr.ge
    rw [fpQuantised, fpMantissa, hr, show min 512 511 = 511 from rfl]
    constructor <;> omega
  · obtain ⟨h1, h2⟩ := fpQuantised_within_half h hr
    constructor <;> omega

/-! ### Quantising twice (90_conflicts.md C9) -/

/-- The lowest magnitude of a band is a whole number of its ULPs. -/
theorem Band.low_eq (b : Band) : ∃ k ≤ 511, b.row.low = k * 2 ^ (32 - b.fbits) := by
  cases b
  case toEighth => exact ⟨0, by decide, rfl⟩
  case toQuarter | toHalf | toOne | toTwo | toFour => exact ⟨256, by decide, rfl⟩

theorem Band.place_lt (b : Band) {m : Nat} (h : m ≤ 511) : m * 2 ^ (32 - b.fbits) < 2 ^ 34 := by
  have hf := b.fbits_range
  calc m * 2 ^ (32 - b.fbits) ≤ 511 * 2 ^ 25 := by
        gcongr
        · decide
        · omega
    _ < 2 ^ 34 := by decide

theorem fpQuantised_lt (a : Nat) : fpQuantised a < 2 ^ 34 := (bandOf a).place_lt (fpMantissa_le a)

/-- A quantised magnitude stays in its band: rounding goes no lower than the band's lowest magnitude, which is a mantissa
itself, and the clamp keeps it below the top. -/
theorem bandOf_fpQuantised {a : Nat} (h : a < 2 ^ 34) : bandOf (fpQuantised a) = bandOf a := by
  obtain ⟨hlow, hhigh⟩ := (bandOf_eq_iff h _).mp rfl
  obtain ⟨k, hk, hkU⟩ := (bandOf a).low_eq
  have hm : k ≤ fpMantissa a := by
    refine Nat.le_min.mpr ⟨?_, hk⟩
    rw [fpRounded, Nat.shiftRight_eq_div_pow, Nat.le_div_iff_mul_le (Nat.two_pow_pos _), ← hkU]
    exact Nat.le_add_right_of_le hlow
  have h511 := fpMantissa_le a
  refine (bandOf_eq_iff (fpQuantised_lt _) _).mpr ⟨?_, ?_⟩
  · rw [hkU, fpQuantised]
    gcongr
  · rw [(bandOf a).ulp.2, fpQuantised]
    gcongr
    omega

theorem fpMantissa_fpQuantised {a : Nat} (h : a < 2 ^ 34) : fpMantissa (fpQuantised a) = fpMantissa a := by
  have hr : fpRounded (fpQuantised a) = fpMantissa a := by
    have hU := (bandOf a).ulp.1
    have hpos := Nat.two_pow_pos (31 - (bandOf a).fbits)
    rw [fpRounded, bandOf_fpQuantised h, Nat.shiftRight_eq_div_pow, fpQuantised, Nat.add_comm,
      Nat.add_mul_div_right _ _ (by omega), Nat.div_eq_of_lt (by omega), Nat.zero_add]
  rw [fpMantissa, hr, Nat.min_eq_left (fpMantissa_le a)]

/-! ### FP_SM words (40_codec.md R98, R101, R102) -/

/-- The word as its three fields, each read off the band table. -/
theorem encFp_toNat_row (neg : Bool) (aIn : Nat) :
    (encFp neg aIn).toNat = 2 ^ 15 * neg.toNat + 2 ^ 12 * (bandOf (fpClamped aIn)).row.exp +
      2 ^ 3 * min ((bandOf (fpClamped aIn)).row.rounded (fpClamped aIn)) 511 := by
  have h : (encFp neg aIn).toNat = neg.toNat * 2 ^ 15 + (bandOf (fpClamped aIn)).code.toNat * 2 ^ 12 +
      fpMantissa (fpClamped aIn) * 2 ^ 3 := encFp_toNat neg aIn
  rw [h, fpMantissa, fpRounded_eq, Band.row_exp]
  ring

/-- The sign bit of a word as its highest digit. -/
theorem toNat_signBit (w : BitVec 16) : (w.getLsbD 15).toNat = w.toNat / 2 ^ 15 := by
  have := w.isLt
  rw [BitVec.getLsbD, Nat.toNat_testBit]
  omega

theorem signBit_of_digit {w : BitVec 16} {neg : Bool} (h : w.toNat / 2 ^ 15 = neg.toNat) : w.getLsbD 15 = neg := by
  rw [← Bool.ofNat_toNat (w.getLsbD 15), toNat_signBit, h, Bool.ofNat_toNat]

/-- A word whose exponent digit is a band's code decodes to its sign bit and its mantissa digits at the band's place,
whatever the low three bits are. -/
theorem decFp_of_code {w : BitVec 16} {b : Band} (h : b.code.toNat = w.toNat / 2 ^ 12 % 8) :
    decFp w = some (w.getLsbD 15, w.toNat / 2 ^ 3 % 512 * 2 ^ (32 - b.fbits)) := by
  have hcode : w.extractLsb' 12 3 = b.code := BitVec.eq_of_toNat_eq (by rw [toNat_field, h]; rfl)
  rw [decFp, hcode, bandOfCode_code, Option.map_some, toNat_field, Nat.shiftLeft_eq, BitVec.msb_eq_getLsbD_last]
  rfl

/-- The sign bit of an encoded word is the sign. -/
theorem getLsbD_encFp_sign (neg : Bool) (aIn : Nat) : (encFp neg aIn).getLsbD 15 = neg := by
  have h2 := (bandOf (min aIn fpBound)).code.isLt
  have h3 := fpMantissa_le (min aIn fpBound)
  refine signBit_of_digit ?_
  rw [encFp_toNat]
  omega

/-- Decoding an encoded word gives the sign and the quantised magnitude. -/
theorem decFp_encFp (neg : Bool) (aIn : Nat) :
    decFp (encFp neg aIn) = some (neg, fpQuantised (fpClamped aIn)) := by
  have hn := encFp_toNat neg aIn
  have h2 := (bandOf (min aIn fpBound)).code.isLt
  have h3 := fpMantissa_le (min aIn fpBound)
  have hm : (encFp neg aIn).toNat / 2 ^ 3 % 512 = fpMantissa (min aIn fpBound) := by omega
  rw [decFp_of_code (b := bandOf (min aIn fpBound)) (by omega), getLsbD_encFp_sign, hm]
  rfl

theorem encFp_fpQuantised (neg : Bool) (aIn : Nat) :
    encFp neg (fpQuantised (fpClamped aIn)) = encFp neg aIn := by
  have h := fpClamped_lt aIn
  have hc : min (fpQuantised (fpClamped aIn)) fpBound = fpQuantised (fpClamped aIn) :=
    Nat.min_eq_left (Nat.le_sub_one_of_lt (fpQuantised_lt _))
  refine BitVec.eq_of_toNat_eq ?_
  rw [encFp_toNat, hc, bandOf_fpQuantised h, fpMantissa_fpQuantised h, encFp_toNat]
  rfl

/-! ### FIX_S312 words (40_codec.md R105, R106) -/

theorem encS312_toNat_div (neg : Bool) (aIn : Nat) :
    (encS312 neg aIn).toNat = 2 ^ 15 * neg.toNat + min (aIn + 2 ^ 19) (8 * 2 ^ 32 - 1) / 2 ^ 20 := by
  rw [encS312_toNat, Nat.shiftRight_eq_div_pow, Nat.mul_comm]
  rfl

theorem decS312_eq (w : BitVec 16) : decS312 w = (w.getLsbD 15, w.toNat % 2 ^ 15 * 2 ^ 20) := by
  rw [decS312, toNat_field, Nat.shiftLeft_eq, BitVec.msb_eq_getLsbD_last, Nat.pow_zero, Nat.div_one]

theorem getLsbD_encS312_sign (neg : Bool) (aIn : Nat) : (encS312 neg aIn).getLsbD 15 = neg := by
  refine signBit_of_digit ?_
  rw [encS312_toNat_div]
  omega

/-- The magnitude a FIX_S312 word of a magnitude stands for (40_codec.md R106). -/
def s312Quantised (a : Nat) : Nat := min (a + 2 ^ 19) (8 * 2 ^ 32 - 1) / 2 ^ 20 * 2 ^ 20

theorem s312Quantised_lt (a : Nat) : s312Quantised a < 2 ^ 35 := by
  rw [s312Quantised]
  omega

/-- What comes back is less than one ULP from the clamped magnitude, and within half an ULP when the clamp does not
act. -/
theorem s312Quantised_within (a : Nat) :
    within (2 ^ 20 - 1) (s312Quantised a) (min a (8 * 2 ^ 32 - 1)) ∧
      (a + 2 ^ 19 ≤ 8 * 2 ^ 32 - 1 → within (2 ^ 19) (s312Quantised a) a) := by
  rw [s312Quantised]
  refine ⟨⟨by omega, by omega⟩, fun h => ?_⟩
  rw [Nat.min_eq_left h]
  exact within_half_of_round a (2 ^ 19) (by decide)

/-- Decoding an encoded word gives the sign and the quantised magnitude. -/
theorem decS312_encS312 (neg : Bool) (aIn : Nat) : decS312 (encS312 neg aIn) = (neg, s312Quantised aIn) := by
  rw [decS312_eq, getLsbD_encS312_sign, encS312_toNat_div, s312Quantised]
  congr 2
  omega

/-- Rounding adds half of the lowest bit to a multiple of it, and the largest decoded magnitude does not reach the
clamp. -/
theorem encS312_decS312 (w : BitVec 16) : encS312 (decS312 w).1 (decS312 w).2 = w := by
  refine BitVec.eq_of_toNat_eq ?_
  rw [encS312_toNat_div, decS312_eq, toNat_signBit]
  omega

/-- Settles O27: a decoded encoder word is the quantised magnitude, which keeps its band and its mantissa. -/
theorem quantisationIsIdempotent : Obligations.QuantisationIsIdempotent := by
  unfold Obligations.QuantisationIsIdempotent
  refine ⟨fun neg aIn neg' back h => ?_, fun neg aIn => by rw [decFp_encFp, Option.isSome_some], encS312_decS312⟩
  rw [decFp_encFp, Option.some.injEq, Prod.mk.injEq] at h
  obtain ⟨rfl, rfl⟩ := h
  exact ⟨rfl, encFp_fpQuantised _ _⟩

end Sys2Proof.Machine
end

section
/-! PROOFS. CTMENC: what it stores under each format (O21, O22), the sign it copies (O29), the identity matrix (O28). -/

namespace Sys2Proof.Machine

/-! ### What CTMENC stores (40_codec.md R107, R110) -/

theorem execCtmenc_fpSm {s : State} {p : Profile} (hp : s.params.profiles[s.gen.toNat]? = some p)
    (hc : p.cfmt = .fpSm) : exec .ctmenc s = .next (s.storeMatrix p
      (s.m.map fun c => encFp (c.getLsbD 63) (encodedMagnitude s p c)) (s.m.map s.fpMagSatOf)
      (s.m.map fun c => fpMantSat (encodedMagnitude s p c))) := by
  have hp' : s.profile? = some p := hp
  simp only [exec, execCtmenc, hp', hc, sgn_eq, inputMag_eq]

theorem execCtmenc_fixS312 {s : State} {p : Profile} (hp : s.params.profiles[s.gen.toNat]? = some p)
    (hc : p.cfmt = .fixS312) : exec .ctmenc s = .next (s.storeMatrix p
      (s.m.map fun c => encS312 (c.getLsbD 63) (encodedMagnitude s p c)) (s.m.map (s.s312MagSatOf p))
      (Nine.fill false)) := by
  have hp' : s.profile? = some p := hp
  simp only [exec, execCtmenc, hp', hc, sgn_eq, inputMag_eq]

section
variable (s : State) (p : Profile) (words : Nine (BitVec 16)) (magSat mantSat : Nine Bool)

theorem storeMatrix_endsOk : EndsWith s (s.storeMatrix p words magSat mantSat) 0 :=
  EndsWith.of_finish (code := codeOk) (by decide) rfl

theorem storeMatrix_offsets (k : Fin 3) : (s.storeMatrix p words magSat mantSat).pre.get k = 0 ∧
    (s.storeMatrix p words magSat mantSat).post.get k =
      if p.limCsc = true ∧ s.cfg.getLsbD 5 = true then s.params.postoffLim else 0 := by
  simp only [State.storeMatrix_pre, State.storeMatrix_post, Three.get_fill, prepassRuns_iff, true_and]

end

theorem fpMagSatOf_eq (s : State) (c : Coef) :
    s.fpMagSatOf c = decide (4 * 2 ^ 32 - 1 < (coefValue s.params.ctmInRepr c).natAbs) := by
  rw [State.fpMagSatOf, mag_eq_natAbs]
  rfl

theorem fpMantSat_eq (aIn : Nat) :
    fpMantSat aIn = decide ((bandOf (fpClamped aIn)).row.rounded (fpClamped aIn) = 512) := by
  rw [← fpRounded_eq]
  rfl

/-- Settles O21: the row is that of the band the model selects. -/
theorem ctmencFpSm : Obligations.CtmencFpSm := by
  unfold Obligations.CtmencFpSm
  intro s p hp hc
  refine ⟨_, execCtmenc_fpSm hp hc, storeMatrix_endsOk .., rfl, storeMatrix_offsets _ _ _ _ _,
    satLegal_satOf _ _, fun i => ⟨_, inBand_bandOf (fpClamped_lt _), ?word, ?magSat, ?mantSat⟩⟩
  case word => rw [State.storeMatrix_ec, Nine.get_map, encFp_toNat_row]
  case magSat => rw [State.storeMatrix_sat, satOf_magSat, Nine.get_map, fpMagSatOf_eq]
  case mantSat => rw [State.storeMatrix_sat, satOf_mantSat, Nine.get_map, fpMantSat_eq]

/-- The magnitude flag under FIX_S312 as a claim says it (40_codec.md R104; log entry 10). -/
theorem s312MagSatOf_iff (s : State) (p : Profile) (c : Coef) : s.s312MagSatOf p c = true ↔
    8 * 2 ^ 32 - 1 < encodedMagnitude s p c + 2 ^ 19 ∨ (p.limCsc = true ∧ s.cfg.getLsbD 5 = true ∧
      p.maxMag * 2 ^ 32 - 1 < (coefValue s.params.ctmInRepr c).natAbs) := by
  simp only [State.s312MagSatOf, s312MagSat, Bool.or_eq_true, Bool.and_eq_true, decide_eq_true_iff, prepassRuns_iff,
    inputMag_eq, mag_eq_natAbs, and_assoc, s312Bound, s312Half, prepassBound, ONE]

/-- With no mantissa flag `SAT` is its nine magnitude flags. -/
theorem satOf_fill_false_lt (magSat : Nine Bool) : (satOf magSat (Nine.fill false)).toNat < 2 ^ 9 := by
  have h : satOf magSat (Nine.fill false) = lane 25 magSat.toBits 0 := BitVec.zero_or
  rw [h, toNat_lane _ _ (by decide)]
  have := magSat.toBits.isLt
  omega

/-- Settles O22: the word and the flags are the model's, in whole-number arithmetic. -/
theorem ctmencFixS312 : Obligations.CtmencFixS312 := by
  unfold Obligations.CtmencFixS312
  intro s p hp hc
  refine ⟨_, execCtmenc_fixS312 hp hc, storeMatrix_endsOk .., rfl, storeMatrix_offsets _ _ _ _ _, satOf_fill_false_lt _,
    fun i => ⟨?word, ?magSat⟩⟩
  case word => rw [State.storeMatrix_ec, Nine.get_map, encS312_toNat_div]
  case magSat => rw [State.storeMatrix_sat, satOf_magSat, Nine.get_map, s312MagSatOf_iff]

/-! ### The sign, and magnitudes that round to 0 (40_codec.md R113) -/

theorem encFp_of_lt_half {aIn : Nat} (h : aIn < 2 ^ 19) (neg : Bool) :
    encFp neg aIn = if neg then 0xB000 else 0x3000 := by
  have ha : fpClamped aIn = aIn := by
    rw [fpClamped]
    omega
  have hb : bandOf aIn = .toEighth := if_pos (by omega)
  have hr : Band.toEighth.row.rounded aIn = 0 := Nat.div_eq_of_lt (by simp only [Band.row]; omega)
  refine BitVec.eq_of_toNat_eq ?_
  rw [encFp_toNat_row, ha, hb, hr]
  cases neg <;> rfl

theorem encS312_of_lt_half {aIn : Nat} (h : aIn < 2 ^ 19) (neg : Bool) :
    encS312 neg aIn = if neg then 0x8000 else 0x0000 := by
  have hq : min (aIn + 2 ^ 19) (8 * 2 ^ 32 - 1) / 2 ^ 20 = 0 := by omega
  refine BitVec.eq_of_toNat_eq ?_
  rw [encS312_toNat_div, hq]
  cases neg <;> rfl

/-- A CTMENC that ends OK encoded the matrix in the format of the tag's profile. -/
theorem execCtmenc_ok {s t : State} {p : Profile} (h : exec .ctmenc s = .next t) (h0 : EndsWith s t 0)
    (hp : s.params.profiles[s.gen.toNat]? = some p) :
    (p.cfmt = .fpSm ∧ t.ec = s.m.map fun c => encFp (c.getLsbD 63) (encodedMagnitude s p c)) ∨
    (p.cfmt = .fixS312 ∧ t.ec = s.m.map fun c => encS312 (c.getLsbD 63) (encodedMagnitude s p c)) := by
  cases hc : p.cfmt with
  | none =>
    have hp' : s.profile? = some p := hp
    simp only [exec, execCtmenc, hp', hc, Host.Outcome.next.injEq] at h
    exact absurd (h ▸ h0) (not_endsWith_raise s _)
  | fpSm =>
    rw [execCtmenc_fpSm hp hc, Host.Outcome.next.injEq] at h
    exact .inl ⟨rfl, h ▸ rfl⟩
  | fixS312 =>
    rw [execCtmenc_fixS312 hp hc, Host.Outcome.next.injEq] at h
    exact .inr ⟨rfl, h ▸ rfl⟩

/-- Settles O29: the word's highest digit is the sign, and a magnitude below half an ULP leaves it alone in the word. -/
theorem signIsCopiedWhateverTheMagnitude : Obligations.SignIsCopiedWhateverTheMagnitude := by
  unfold Obligations.SignIsCopiedWhateverTheMagnitude
  refine ⟨fun s t h h0 p i hp => ?_, rfl, rfl, rfl, rfl⟩
  obtain ⟨hc, he⟩ | ⟨hc, he⟩ := execCtmenc_ok h h0 hp
  · rw [he, Nine.get_map, getLsbD_encFp_sign]
    exact ⟨rfl, fun ha => ⟨fun _ => encFp_of_lt_half ha _, fun hc' => by simp [hc] at hc'⟩⟩
  · rw [he, Nine.get_map, getLsbD_encS312_sign]
    exact ⟨rfl, fun ha => ⟨fun hc' => by simp [hc] at hc', fun _ => encS312_of_lt_half ha _⟩⟩

/-! ### The identity matrix (40_codec.md R112) -/

/-- The identity matrix in S31.32. -/
def identityMatrix : Nine Coef := ⟨0x100000000, 0, 0, 0, 0x100000000, 0, 0, 0, 0x100000000⟩

/-- Nine values made from the identity matrix: one value on the diagonal, another elsewhere. -/
theorem map_identityMatrix {α : Type} {f : Coef → α} {one zero : α} (h1 : f 0x100000000 = one) (h0 : f 0 = zero) :
    identityMatrix.map f = ⟨one, zero, zero, zero, one, zero, zero, zero, one⟩ := by
  subst h1 h0
  rfl

theorem natAbs_coefValue_identity (rep : CtmRepr) :
    (coefValue rep 0x100000000).natAbs = 2 ^ 32 ∧ (coefValue rep 0).natAbs = 0 := by
  cases rep <;> decide

theorem satOf_fill_false : satOf (Nine.fill false) (Nine.fill false) = 0 := by decide

/-- Settles O28: without the pre-pass the two magnitudes to encode are 2^32 and 0. -/
theorem identityMatrixConstants : Obligations.IdentityMatrixConstants := by
  unfold Obligations.IdentityMatrixConstants
  intro s p hp hpre hm
  change s.m = identityMatrix at hm
  obtain ⟨h1, h0⟩ := natAbs_coefValue_identity s.params.ctmInRepr
  have he1 : encodedMagnitude s p 0x100000000 = 2 ^ 32 := (if_neg hpre).trans h1
  have he0 : encodedMagnitude s p 0 = 0 := (if_neg hpre).trans h0
  refine ⟨fun hc => ⟨_, execCtmenc_fpSm hp hc, storeMatrix_endsOk .., ?_, ?_⟩,
    fun hc => ⟨_, execCtmenc_fixS312 hp hc, storeMatrix_endsOk .., ?_, ?_⟩⟩
  · have hmag {c : Coef} (hc : (coefValue s.params.ctmInRepr c).natAbs ≤ 2 ^ 32) : s.fpMagSatOf c = false := by
      rw [fpMagSatOf_eq, decide_eq_false_iff_not]
      omega
    rw [State.storeMatrix_sat, hm, map_identityMatrix (hmag h1.le) (hmag (by omega)),
      map_identityMatrix (one := false) (zero := false) (by rw [he1]; rfl) (by rw [he0]; rfl)]
    exact satOf_fill_false
  · rw [State.storeMatrix_ec, hm]
    exact map_identityMatrix (by rw [he1]; rfl) (by rw [he0]; rfl)
  · have hsat {c : Coef} (ha : encodedMagnitude s p c ≤ 2 ^ 32) : s.s312MagSatOf p c = false := by
      rw [← Bool.not_eq_true, s312MagSatOf_iff, ← and_assoc]
      rintro (h | ⟨h, -⟩)
      · omega
      · exact hpre h
    rw [State.storeMatrix_sat, hm, map_identityMatrix (hsat he1.le) (hsat (by omega))]
    exact satOf_fill_false
  · rw [State.storeMatrix_ec, hm]
    exact map_identityMatrix (by rw [he1]; rfl) (by rw [he0]; rfl)

end Sys2Proof.Machine
end

section
/-! PROOFS. CTMDEC: what it decodes under each format (O24, O25), and CTMENC followed by CTMDEC (O26). -/

namespace Sys2Proof.Machine

/-! ### What CTMDEC stores (40_codec.md R102, R106, R111) -/

section
variable {s : State} {p : Profile} (hp : s.params.profiles[s.gen.toNat]? = some p) (hr : p.readback = true)
include hp hr

/-- One word that does not decode, and the operation faults. -/
theorem execCtmdec_fpSm_reserved (hc : p.cfmt = .fpSm) (h : ∃ i, decFp (s.ec.get i) = none) :
    exec .ctmdec s = .next (s.raise .reservedEncoding) := by
  have hseq : (s.ec.map decFp).sequence = none := by
    simpa only [Nine.sequence_eq_none, Nine.get_map] using h
  have hp' : s.profile? = some p := hp
  simp only [exec, execCtmdec, hp', hr, hc, if_true, hseq]

/-- When every word decodes, the nine decoded coefficients are stored. -/
theorem execCtmdec_fpSm_ok (hc : p.cfmt = .fpSm) {x : Fin 9 → Bool × Nat}
    (h : ∀ i, decFp (s.ec.get i) = some (x i)) :
    ∃ coefs, exec .ctmdec s = .next ({ s with m := coefs }.finish codeOk) ∧ ∀ i, coefs.get i = s.joined (x i) := by
  cases hseq : (s.ec.map decFp).sequence with
  | none =>
    obtain ⟨i, hi⟩ := Nine.sequence_eq_none.mp hseq
    rw [Nine.get_map, h i] at hi
    cases hi
  | some y =>
    have hp' : s.profile? = some p := hp
    refine ⟨y.map s.joined, by simp only [exec, execCtmdec, hp', hr, hc, if_true, hseq], fun i => ?_⟩
    have hy := Nine.sequence_eq_some.mp hseq i
    rw [Nine.get_map, h i, Option.some.injEq] at hy
    rw [Nine.get_map, hy]

theorem execCtmdec_fixS312 (hc : p.cfmt = .fixS312) :
    exec .ctmdec s = .next ({ s with m := (s.ec.map decS312).map s.joined }.finish codeOk) := by
  have hp' : s.profile? = some p := hp
  simp only [exec, execCtmdec, hp', hr, hc, if_true]

end

theorem finishOk_endsOk (s : State) (coefs : Nine Coef) : EndsWith s ({ s with m := coefs }.finish codeOk) 0 :=
  EndsWith.of_finish (code := codeOk) (by decide) rfl

theorem onlyStatus_raise (s : State) {f : OpFault} (h : f.expected = none ∧ f.actual = none) :
    OnlyStatus s (s.raise f) f.code.toNat := by
  refine ⟨EndsWith.of_raise rfl, ?_⟩
  rw [State.raise, h.1, h.2]
  rfl

/-- A sign and a magnitude as the coefficient CTMDEC stores for them. -/
theorem joined_value (s : State) (neg : Bool) {a : Nat} (h : a < 2 ^ 63) :
    coefValue s.params.ctmInRepr (s.joined (neg, a)) = (if neg then -1 else 1) * (a : Int) ∧
      (s.params.ctmInRepr = .signmag → (s.joined (neg, a)).getLsbD 63 = neg) := by
  refine ⟨coefValue_join _ neg h, fun hrep => ?_⟩
  rw [State.joined, hrep, getLsbD_join_signmag]

/-! ### Reserved exponent codes (40_codec.md R102) -/

/-- The digits of the exponent field that are some band's code are all but 4 and 5. -/
theorem exists_band_of_digit {e : Nat} (h : e < 8) (hr : e ≠ 4 ∧ e ≠ 5) : ∃ b : Band, b.code.toNat = e := by
  obtain ⟨h4, h5⟩ := hr
  interval_cases e
  · exact ⟨.toOne, rfl⟩
  · exact ⟨.toHalf, rfl⟩
  · exact ⟨.toQuarter, rfl⟩
  · exact ⟨.toEighth, rfl⟩
  · exact absurd rfl h4
  · exact absurd rfl h5
  · exact ⟨.toFour, rfl⟩
  · exact ⟨.toTwo, rfl⟩

theorem decFp_reserved {w : BitVec 16} (h : w.toNat / 2 ^ 12 % 8 = 4 ∨ w.toNat / 2 ^ 12 % 8 = 5) : decFp w = none := by
  have hcode : w.extractLsb' 12 3 = 4 ∨ w.extractLsb' 12 3 = 5 :=
    h.imp (fun h => BitVec.eq_of_toNat_eq ((toNat_field w 12 3).trans h))
      (fun h => BitVec.eq_of_toNat_eq ((toNat_field w 12 3).trans h))
  obtain h | h := hcode <;> rw [decFp, h] <;> rfl

/-- Settles O24: a word of a reserved code is missing from the nine; any other digit is a band's code, whose row gives
the magnitude. -/
theorem ctmdecFpSm : Obligations.CtmdecFpSm := by
  unfold Obligations.CtmdecFpSm
  intro s p hp hc hr
  refine ⟨fun ⟨i, hi⟩ => ⟨_, execCtmdec_fpSm_reserved hp hr hc ⟨i, decFp_reserved hi⟩, onlyStatus_raise s ⟨rfl, rfl⟩⟩,
    fun h => ?_⟩
  choose b hb using fun i => exists_band_of_digit (Nat.mod_lt _ (by decide)) (h i)
  obtain ⟨coefs, he, hx⟩ := execCtmdec_fpSm_ok hp hr hc fun i => decFp_of_code (hb i)
  refine ⟨_, he, finishOk_endsOk .., rfl, fun i => ⟨(b i).row, (b i).row_mem, (b i).row_exp.trans (hb i), ?_⟩⟩
  rw [State.finish_m, hx, Band.row_fbits]
  exact joined_value s _ (((b i).place_lt (by omega)).trans (by decide))

/-- Settles O25: each word is its sign bit and fifteen digits, a magnitude below 2^35. -/
theorem ctmdecFixS312 : Obligations.CtmdecFixS312 := by
  unfold Obligations.CtmdecFixS312
  intro s p hp hc hr
  refine ⟨_, execCtmdec_fixS312 hp hr hc, finishOk_endsOk .., rfl, fun i => ?_⟩
  rw [State.finish_m, Nine.get_map, Nine.get_map, decS312_eq]
  exact joined_value s _ (by omega)

/-! ### CTMENC, then CTMDEC (40_codec.md R108) -/

/-- CTMENC, then CTMDEC, gives each coefficient back with its sign bit and the magnitude `back` makes of it, and changes
nothing outside the codec's own registers. -/
def CodecRoundTrip (s : State) (back : Coef → Nat) : Prop :=
  ∃ t u, exec .ctmenc s = .next t ∧ exec .ctmdec t = .next u ∧ EndsWith t u 0 ∧
    u = { s with m := u.m, ec := u.ec, pre := u.pre, post := u.post, sat := u.sat, status := u.status } ∧
    ∀ i, u.m.get i = s.joined ((s.m.get i).getLsbD 63, back (s.m.get i))

section
variable {s : State} {p : Profile} (hp : s.params.profiles[s.gen.toNat]? = some p) (hr : p.readback = true)
include hp hr

theorem codecRoundTrip_fpSm (hf : p.cfmt = .fpSm) :
    CodecRoundTrip s fun c => fpQuantised (fpClamped (encodedMagnitude s p c)) := by
  obtain ⟨words, magSat, mantSat, henc, hw⟩ : ∃ words magSat mantSat,
      exec .ctmenc s = .next (s.storeMatrix p words magSat mantSat) ∧ ∀ i, decFp (words.get i) =
        some ((s.m.get i).getLsbD 63, fpQuantised (fpClamped (encodedMagnitude s p (s.m.get i)))) :=
    ⟨_, _, _, execCtmenc_fpSm hp hf, fun i => by rw [Nine.get_map, decFp_encFp]⟩
  obtain ⟨coefs, hdec, hx⟩ := execCtmdec_fpSm_ok (s := s.storeMatrix p words magSat mantSat) hp hr hf hw
  exact ⟨_, _, henc, hdec, finishOk_endsOk .., rfl, hx⟩

theorem codecRoundTrip_fixS312 (hf : p.cfmt = .fixS312) :
    CodecRoundTrip s fun c => s312Quantised (encodedMagnitude s p c) := by
  refine ⟨_, _, execCtmenc_fixS312 hp hf, execCtmdec_fixS312 (s := s.storeMatrix p _ _ _) hp hr hf,
    finishOk_endsOk .., rfl, fun i => ?_⟩
  rw [State.finish_m, Nine.get_map, State.storeMatrix_ec, Nine.get_map, Nine.get_map, decS312_encS312]
  rfl

end

/-- Settles O26: what comes back has the sign and the rounded magnitude, whose distance each format bounds. -/
theorem matrixRoundTripWithinOneUlp : Obligations.MatrixRoundTripWithinOneUlp := by
  unfold Obligations.MatrixRoundTripWithinOneUlp
  intro s p hp hc hr
  cases hf : p.cfmt with
  | none => exact absurd hf hc
  | fpSm =>
    obtain ⟨t, u, henc, hdec, hok, hframe, hm⟩ := codecRoundTrip_fpSm hp hr hf
    refine ⟨t, u, henc, hdec, hok, hframe, fun i => ?_⟩
    have hlt := fpClamped_lt (encodedMagnitude s p (s.m.get i))
    obtain ⟨hvalue, hsign⟩ := joined_value s ((s.m.get i).getLsbD 63)
      ((fpQuantised_lt (fpClamped (encodedMagnitude s p (s.m.get i)))).trans (by decide : 2 ^ 34 < 2 ^ 63))
    rw [hm]
    refine ⟨hsign, _, hvalue, fun _ => ⟨_, inBand_bandOf hlt, ?_, ?_⟩, nofun⟩
    · rw [Band.row_fbits]
      exact fpQuantised_within hlt
    · rw [Band.row_fbits, ← fpRounded_eq]
      exact fpQuantised_within_half hlt
  | fixS312 =>
    obtain ⟨t, u, henc, hdec, hok, hframe, hm⟩ := codecRoundTrip_fixS312 hp hr hf
    refine ⟨t, u, henc, hdec, hok, hframe, fun i => ?_⟩
    obtain ⟨hvalue, hsign⟩ := joined_value s ((s.m.get i).getLsbD 63)
      ((s312Quantised_lt (encodedMagnitude s p (s.m.get i))).trans (by decide : 2 ^ 35 < 2 ^ 63))
    rw [hm]
    exact ⟨hsign, _, hvalue, nofun, fun _ => s312Quantised_within _⟩

end Sys2Proof.Machine
end

section
/-! PROOFS. LUTENC, LUTDEC and LUTCMP read nothing of the profile and of the codec (O19). -/

namespace Sys2Proof.Machine

/-- `s` with the registers, the operand files and the launch parameters of `o` that no LUT operation reads
(41_lut_transcoder.md R131, 43_equality.md R234); the table lengths and the capacities are those of `p`. -/
def State.withProfileOf (s o : State) (p : Params) : State :=
  { s with
    gen := o.gen, cfg := o.cfg, deglen := o.deglen, gamlen := o.gamlen, prec := o.prec, m := o.m, ec := o.ec,
    params := { o.params with tables := p.tables, clutCap := p.clutCap, hlutCap := p.hlutCap } }

/-- Wherever the run from `s` answers `t`, the run from `s` with the profile of `o` answers `t` with the profile of
`o`. -/
def SameBesidesProfile (s o : State) (r r' : Result) : Prop :=
  ∀ t, r = .next t → r' = .next (t.withProfileOf o s.params)

namespace SameBesidesProfile

variable {s o : State}

/-- The two runs end in the same update. -/
theorem next {t t' : State} (h : t' = t.withProfileOf o s.params) :
    SameBesidesProfile s o (.next t) (.next t') := by
  rintro _ ⟨⟩
  rw [h]

/-- A branch on what both runs read alike. -/
theorem ite {c : Prop} [Decidable c] {a a' b b' : Result} (ha : SameBesidesProfile s o a a')
    (hb : SameBesidesProfile s o b b') :
    SameBesidesProfile s o (if c then a else b) (if c then a' else b') := by
  by_cases h : c
  · simpa only [if_pos h] using ha
  · simpa only [if_neg h] using hb

end SameBesidesProfile

section
variable (s o : State)

theorem encodeLut_sameBesidesProfile (sh : LutShape) (ident : Bool) :
    SameBesidesProfile s o (encodeLut sh ident s) (encodeLut sh ident (s.withProfileOf o s.params)) :=
  .ite (.next rfl) (.ite (.next rfl) (.next rfl))

theorem decodeLut_sameBesidesProfile (sh : LutShape) :
    SameBesidesProfile s o (decodeLut sh s) (decodeLut sh (s.withProfileOf o s.params)) :=
  .ite (.next rfl) (.ite (.next rfl) (.ite (.next rfl) (.next rfl)))

/-- LUTCMP compares what neither run changed: the precision, the lengths and the two buffers. -/
theorem execLutcmp_sameBesidesProfile :
    SameBesidesProfile s o (execLutcmp s) (execLutcmp (s.withProfileOf o s.params)) := by
  refine .ite (.next rfl) (.ite (.next rfl) ?_)
  have hfirst : (s.withProfileOf o s.params).firstMismatch = s.firstMismatch := rfl
  have hprec : (s.withProfileOf o s.params).precIn = s.precIn := rfl
  have hlen : (s.withProfileOf o s.params).clen0 = s.clen0 := rfl
  simp only [hfirst, hprec, hlen]
  cases s.firstMismatch (tolerance s.precIn) s.clen0.toNat with
  | some i => exact .next rfl
  | none => exact .next rfl

theorem exec_sameBesidesProfile {i : Instr} (henc : i ≠ .ctmenc) (hdec : i ≠ .ctmdec) (hsel : i ≠ .toposel) :
    SameBesidesProfile s o (exec i s) (exec i (s.withProfileOf o s.params)) := by
  cases i using Instr.cases_shape with
  | ctmenc => exact absurd rfl henc
  | ctmdec => exact absurd rfl hdec
  | toposel => exact absurd rfl hsel
  | lutcmp => exact execLutcmp_sameBesidesProfile s o
  | lutenc ident sh => simpa only [exec_lutencOf] using encodeLut_sameBesidesProfile s o sh ident
  | lutdec sh => simpa only [exec_lutdecOf] using decodeLut_sameBesidesProfile s o sh

end

/-- Settles O19: each of the three operations makes the same checks in both runs and ends in the same update. -/
theorem lutOperationsIgnoreTheProfile : Obligations.LutOperationsIgnoreTheProfile := by
  unfold Obligations.LutOperationsIgnoreTheProfile
  exact fun _ s t o henc hdec hsel => exec_sameBesidesProfile s o henc hdec hsel t

end Sys2Proof.Machine
end

section
/-! PROOFS. LUTENC, shape by shape (O31 to O37), and the length it leaves (O44): one lemma says what every shape does,
and each shape adds the words of its table. -/

namespace Sys2Proof.Machine

/-! ### What every shape does (41_lut_transcoder.md R133, R156) -/

/-- The elements of a list are what `read` gives at the list's indices. -/
def ReadsBack {α : Type} (read : Nat → α) (elements : List α) : Prop :=
  ∀ ⦃i x⦄, elements[i]? = some x → read i = x

/-- A table that fits is read back from where it was stored. -/
theorem storeTable_readsBack {s : State} {sh : LutShape} {words : List Word} (hf : words.length ≤ s.params.hlutCap) :
    ReadsBack (s.storeTable sh words).readHlutWord words := fun i _ hi => by
  obtain ⟨hlt, -⟩ := List.getElem?_eq_some_iff.mp hi
  exact storeTable_read hi (by omega)

/-- A LUTENC whose length is accepted and whose table fits ends OK with the words of its table in `HLUT`. -/
theorem encodeLut_readsBack {s : State} {sh : LutShape} {ident : Bool} (hp : s.params.wellFormed = true)
    (h : ident = true ∨ SourceAccepted s sh) (hf : EncodeFits s sh) :
    ∃ t, encodeLut sh ident s = .next t ∧
      TableStored s t (lutWords s.params.tables sh) (lutBase s.params.tables sh) ∧
      ReadsBack t.readHlutWord (packLut s.params.tables sh (s.sourceLen sh ident) (s.source sh ident)) := by
  obtain ⟨t, he, hs, rfl⟩ := encodeLut_stored hp h hf
  exact ⟨_, he, hs, storeTable_readsBack (by rwa [packLut_length, lutWords_eq])⟩

/-- What a LUTENC statement concludes: a table stored, of which `P` says the words, or SIZE_MISMATCH. -/
theorem encodeLut_stores_or_refuses {s : State} {sh : LutShape} {ident : Bool} {P : State → Prop}
    (hp : s.params.wellFormed = true)
    (hP : ∀ t, ReadsBack t.readHlutWord (packLut s.params.tables sh (s.sourceLen sh ident) (s.source sh ident)) → P t) :
    (ident = true ∨ SourceAccepted s sh → EncodeFits s sh →
      ∃ t, encodeLut sh ident s = .next t ∧
        TableStored s t (lutWords s.params.tables sh) (lutBase s.params.tables sh) ∧ P t) ∧
    (¬(ident = true ∨ SourceAccepted s sh) →
      ∃ t, encodeLut sh ident s = .next t ∧ SizeMismatchRaised s t (lutNeed s.params.tables sh) s.clen0.toNat) := by
  refine ⟨fun h hf => ?_, encodeLut_mismatch hp⟩
  obtain ⟨t, he, hs, ht⟩ := encodeLut_readsBack hp h hf
  exact ⟨t, he, hs, hP t ht⟩

/-- A source entry inside the shape's source length (R135). -/
theorem sourceEntry_of_lt (s : State) (sh : LutShape) (ident : Bool) {i : Nat} (hi : i < lutNeed s.params.tables sh) :
    SourceEntry s ident (lutNeed s.params.tables sh) i (s.source sh ident i) :=
  sourceEntry_source s sh ident (.inl hi)

/-- The last source entry. -/
theorem sourceEntry_last {s : State} (hp : s.params.wellFormed = true) (sh : LutShape) (ident : Bool) :
    SourceEntry s ident (lutNeed s.params.tables sh) (lutNeed s.params.tables sh - 1)
      (s.source sh ident (lutNeed s.params.tables sh - 1)) :=
  sourceEntry_of_lt s sh ident (Nat.sub_one_lt_of_lt (lutNeed_bounds hp sh).1)

theorem toNat_maxWord (c : Chan) : (c.setWidth 32).toNat = c.toNat :=
  BitVec.toNat_setWidth_of_le (by decide)

/-! ### The shapes with one word for each entry -/

/-- Settles O31: each word is `w8` of its source entry. -/
theorem lutencL8 : Obligations.LutencL8 := by
  unfold Obligations.LutencL8
  refine fun s ident hp => encodeLut_stores_or_refuses (sh := .l8) hp fun t ht i hi =>
    ⟨_, sourceEntry_of_lt s .l8 ident hi, ?_⟩
  rw [ht (packLut_l8 _ _ _ hi), toNat_w8]

/-- Settles O33: each word is `w10` of its source entry. -/
theorem lutencP10 : Obligations.LutencP10 := by
  unfold Obligations.LutencP10
  refine fun s ident hp => encodeLut_stores_or_refuses (sh := .p10) hp fun t ht i hi =>
    ⟨_, sourceEntry_of_lt s .p10 ident hi, ?_⟩
  rw [ht (packLut_p10 _ _ _ hi), toNat_w10]

/-- Settles O36: each word is the green channel of its source entry. -/
theorem lutencMono16 : Obligations.LutencMono16 := by
  unfold Obligations.LutencMono16
  refine fun s ident hp => encodeLut_stores_or_refuses (sh := .mono16) hp fun t ht i hi =>
    ⟨_, sourceEntry_of_lt s .mono16 ident hi, ?_⟩
  rw [ht (packLut_mono16 _ _ _ hi), toNat_wMono]

/-! ### S10 (R134, R143) -/

theorem downsample_zero (n h : Nat) : downsample n h 0 = 0 := by
  rw [downsample, Nat.zero_mul, Nat.zero_div]

theorem downsample_last (n : Nat) {h : Nat} (hh : 2 ≤ h) : downsample n h (h - 1) = n - 1 :=
  Nat.mul_div_cancel_left _ (by omega)

theorem downsample_mono (n h : Nat) {i j : Nat} (hij : i ≤ j) : downsample n h i ≤ downsample n h j :=
  Nat.div_le_div_right (Nat.mul_le_mul_right _ hij)

theorem downsample_le (n : Nat) {h j : Nat} (hh : 2 ≤ h) (hj : j < h) : downsample n h j ≤ n - 1 :=
  calc downsample n h j ≤ downsample n h (h - 1) := downsample_mono n h (by omega)
    _ = n - 1 := downsample_last n hh

theorem downsample_self {h : Nat} (hh : 2 ≤ h) (j : Nat) : downsample h h j = j :=
  Nat.mul_div_cancel _ (by omega)

/-- Settles O45: floor division keeps the ends and the order; the reference points are computed. -/
theorem downsamplingLaws : Obligations.DownsamplingLaws := by
  unfold Obligations.DownsamplingLaws
  exact fun h n i j hh hn hij hj => ⟨rfl, downsample_zero n h, downsample_last n hh, downsample_mono n h hij,
    downsample_le n hh hj, downsample_self hh j, by decide⟩

theorem lutBase_s10 (len : TableLens) (sz : HalfSize) (half : Half) :
    lutBase len (.s10 sz half) = if half = .lo then 0 else lutNeed len (.s10 sz half) := by
  cases half <;> rfl

/-- With `ID` the source is as long as the half, and the down-sampling stays inside it. -/
theorem sourceEntry_downsample {s : State} (hp : s.params.wellFormed = true) (sz : HalfSize) (half : Half)
    (ident : Bool) (i : Nat) (hi : i < halfEntries s.params.tables sz) :
    let picked := downsample (s.sourceLen (.s10 sz half) ident) (halfEntries s.params.tables sz) i
    SourceEntry s ident (halfEntries s.params.tables sz) picked (s.source (.s10 sz half) ident picked) := by
  refine sourceEntry_source s (.s10 sz half) ident ?_
  cases ident with
  | false => exact .inr rfl
  | true => exact .inl ((downsample_self (lutNeed_bounds hp (.s10 sz half)).1 i).trans_lt hi)

/-- Settles O34: each word is `w10` of the source entry its down-sampling picks. -/
theorem lutencS10 : Obligations.LutencS10 := by
  unfold Obligations.LutencS10
  intro s sz half ident hp
  simp only [State.columns, ← lutNeed_eq, ← lutBase_s10]
  refine encodeLut_stores_or_refuses (sh := .s10 sz half) hp fun t ht i hi =>
    ⟨_, sourceEntry_downsample hp sz half ident i hi, ?_⟩
  rw [ht (packLut_s10 _ _ _ sz half hi), toNat_w10]

/-! ### DP (R153, R154) -/

theorem dpBits_eq (w : DpWidth) : dpBits w = keptBits (.dp w) := by cases w <;> rfl

theorem dpBits_le (w : DpWidth) : dpBits w ≤ 16 := by cases w <;> decide

/-- Settles O37: each entry gives a word of green and blue and a word of red. -/
theorem lutencDp : Obligations.LutencDp := by
  unfold Obligations.LutencDp
  intro s w ident hp
  simp only [State.columns, ← lutNeed_eq, ← dpBits_eq]
  refine encodeLut_stores_or_refuses (sh := .dp w) hp fun t ht i hi => ⟨_, sourceEntry_of_lt s (.dp w) ident hi, ?_⟩
  obtain ⟨hlo, hhi⟩ := packLut_dp s.params.tables (s.sourceLen (.dp w) ident) (s.source (.dp w) ident) w hi
  rw [ht hlo, ht hhi]
  exact ⟨toNat_ldwDp (dpBits_le w) _, toNat_udwDp (dpBits_le w) _⟩

/-! ### I10P6 and MS124: pairs, then the last entry whole (R139, R140, R146 to R148) -/

/-- Settles O32: the pairs are the low and the high bytes, and the max words are the last entry's channels. -/
theorem lutencI10p6 : Obligations.LutencI10p6 := by
  unfold Obligations.LutencI10p6
  intro s ident hp
  refine encodeLut_stores_or_refuses (sh := .i10p6) hp fun t ht => ⟨fun i hi => ?_, ?_⟩
  · obtain ⟨hlo, hhi⟩ := packLut_i10p6 s.params.tables (s.sourceLen .i10p6 ident) (s.source .i10p6 ident) hi
    refine ⟨_, sourceEntry_of_lt s .i10p6 ident (Nat.lt_of_lt_pred hi), ?_⟩
    rw [ht hlo, ht hhi]
    exact ⟨toNat_ldwI _, toNat_udwI _⟩
  · obtain ⟨hr, hg, hb⟩ := packLut_i10p6_max s.params.tables (s.sourceLen .i10p6 ident) (s.source .i10p6 ident)
    refine ⟨_, sourceEntry_last hp .i10p6 ident, ?_⟩
    rw [ht hr, ht hg, ht hb]
    exact ⟨toNat_maxWord _, toNat_maxWord _, toNat_maxWord _⟩

/-- The picks of MS124 in the words of a claim. -/
theorem ms124Picks_pickedIndex (len : TableLens) (n : Nat) {k : Nat} (hk : k < 521) :
    ms124Picks[k]? = some (pickedIndex len .ms124 n k) := by
  rw [ms124Picks_get hk, pickedIndex, if_pos (show k ≤ 520 by omega)]

/-- Every pick of MS124 is a source entry: the last of them is 1024 * 255. -/
theorem pickedIndex_ms124_lt {p : Params} (hp : p.wellFormed = true) (n : Nat) {k : Nat} (hk : k < 521) :
    pickedIndex p.tables .ms124 n k < p.tables.ms := by
  have := ms_gt_of_wellFormed hp
  simp only [pickedIndex]
  split_ifs <;> omega

/-- Settles O35: the pairs are the low six and the top ten bits of the picks, and the max words are the last entry's
channels. -/
theorem lutencMs124 : Obligations.LutencMs124 := by
  unfold Obligations.LutencMs124
  intro s ident hp
  refine encodeLut_stores_or_refuses (sh := .ms124) hp fun t ht => ⟨fun k hk => ?_, ?_⟩
  · obtain ⟨hlo, hhi⟩ := packLut_ms124 s.params.tables (s.sourceLen .ms124 ident) (s.source .ms124 ident)
      (ms124Picks_pickedIndex s.params.tables s.params.tables.ms hk)
    refine ⟨_, sourceEntry_of_lt s .ms124 ident (pickedIndex_ms124_lt hp _ hk), ?_⟩
    rw [ht hlo, ht hhi]
    exact ⟨toNat_ldw12 _, toNat_udw12 _⟩
  · obtain ⟨hr, hg, hb⟩ := packLut_ms124_max s.params.tables (s.sourceLen .ms124 ident) (s.source .ms124 ident)
    refine ⟨_, sourceEntry_last hp .ms124 ident, ?_⟩
    rw [ht hr, ht hg, ht hb]
    exact ⟨toNat_maxWord _, toNat_maxWord _, toNat_maxWord _⟩

/-! ### The length a LUTENC leaves (R156) -/

/-- A LUTENC that ends OK leaves the shape's word count in `HLEN`. -/
theorem encodeLut_hlen {sh : LutShape} {ident : Bool} {s t : State} (h : encodeLut sh ident s = .next t)
    (hp : s.params.wellFormed = true) (h0 : EndsWith s t 0) : t.hlen.toNat = lutWords s.params.tables sh := by
  obtain ⟨-, -, rfl⟩ := encodeLut_endsOk h h0
  obtain ⟨hw, -, -⟩ := lengths_lt hp sh
  rw [State.storeTable_hlen, BitVec.toNat_ofNat, Nat.mod_eq_of_lt hw]

/-- A LUTENC that does not end OK raised a fault, which leaves `HLEN`. -/
theorem encodeLut_keeps_hlen {sh : LutShape} {ident : Bool} {s t : State} (h : encodeLut sh ident s = .next t)
    (h0 : ¬EndsWith s t 0) : t.hlen = s.hlen := by
  rcases encodeLut_cases h with ⟨-, rfl⟩ | ⟨-, -, rfl⟩ | ⟨-, -, rfl⟩
  · rfl
  · exact absurd (EndsWith.of_finish (code := codeOk) (by decide) rfl) h0
  · rfl

/-- Settles O44: `HLEN` is written where the table is stored, and by no fault; the table of R130 is computed. -/
theorem encodedLengthIsFixed : Obligations.EncodedLengthIsFixed := by
  unfold Obligations.EncodedLengthIsFixed
  simp only [exec_lutencOf, State.columns, ← lutWords_eq]
  refine ⟨fun sh ident s t h => ⟨encodeLut_hlen h, encodeLut_keeps_hlen h⟩, ?_⟩
  rintro _ rfl
  exact ⟨rfl, rfl, rfl, fun _ => ⟨rfl, rfl⟩, rfl, rfl, rfl, rfl⟩

end Sys2Proof.Machine
end

section
/-! PROOFS. LUTDEC, shape by shape (O38 to O43): one lemma says what every shape does, and each shape adds its
entries. -/

namespace Sys2Proof.Machine

/-! ### What every shape does (41_lut_transcoder.md R133) -/

/-- Entries that fit are read back from where they were stored. -/
theorem storeEntries_readsBack {s : State} {sh : LutShape} {entries : List Entry}
    (hf : entries.length ≤ s.params.clutCap) :
    ReadsBack ((s.storeEntries sh entries).readEntry .clut0) entries := fun i _ hi => by
  obtain ⟨hlt, -⟩ := List.getElem?_eq_some_iff.mp hi
  exact storeEntries_read hi (by omega)

/-- A LUTDEC whose length is accepted and whose words and entries fit ends OK with the entries of its table in
`CLUT0`. -/
theorem decodeLut_readsBack {s : State} {sh : LutShape} (hp : s.params.wellFormed = true)
    (h : s.hlen.toNat = lutWords s.params.tables sh) (hf : DecodeFits s sh) :
    ∃ t, decodeLut sh s = .next t ∧ EntriesStored s t (lutHwEntries s.params.tables sh) ∧
      ReadsBack (t.readEntry .clut0) (unpackLut s.params.tables sh s.readHlutWord) := by
  obtain ⟨t, hd, hs, rfl⟩ := decodeLut_stored hp h hf
  have hlen : 1 ≤ s.params.tables.i10p6 := Nat.le_of_lt (lutNeed_bounds hp .i10p6).1
  refine ⟨_, hd, hs, storeEntries_readsBack ?_⟩
  rw [unpackLut_length hlen, lutHwEntries_eq]
  exact hf.2

/-- What a LUTDEC statement concludes: entries stored, of which `P` says the channels, or SIZE_MISMATCH. -/
theorem decodeLut_stores_or_refuses {s : State} {sh : LutShape} {P : State → Prop} (hp : s.params.wellFormed = true)
    (hP : ∀ t, ReadsBack (t.readEntry .clut0) (unpackLut s.params.tables sh s.readHlutWord) → P t) :
    (s.hlen.toNat = lutWords s.params.tables sh → DecodeFits s sh →
      ∃ t, decodeLut sh s = .next t ∧ EntriesStored s t (lutHwEntries s.params.tables sh) ∧ P t) ∧
    (s.hlen.toNat ≠ lutWords s.params.tables sh →
      ∃ t, decodeLut sh s = .next t ∧ SizeMismatchRaised s t (lutWords s.params.tables sh) s.hlen.toNat) := by
  refine ⟨fun h hf => ?_, decodeLut_mismatch hp⟩
  obtain ⟨t, hd, hs, ht⟩ := decodeLut_readsBack hp h hf
  exact ⟨t, hd, hs, hP t ht⟩

/-! ### Channels unpacked, as numbers -/

/-- A field widened to a channel. -/
theorem toNat_widen_field {p : Nat} (hp : p ≤ 16) (w : Word) (pos : Nat) :
    (widen p (w.extractLsb' pos p)).toNat = 2 ^ (16 - p) * (w.toNat / 2 ^ pos % 2 ^ p) := by
  rw [toNat_widen hp, toNat_field]

/-- A channel put together from two fields. -/
theorem toNat_joinLanes_fields (hi lo : Word) (ph pl j k : Nat) (h : k + j ≤ 16) :
    (joinLanes k (hi.extractLsb' ph j) (lo.extractLsb' pl k)).toNat =
      2 ^ k * (hi.toNat / 2 ^ ph % 2 ^ j) + lo.toNat / 2 ^ pl % 2 ^ k := by
  rw [toNat_joinLanes k _ _ h le_rfl, toNat_field, toNat_field]

/-- A field at the bottom of a word. -/
theorem toNat_lowField (w : Word) (k : Nat) : (w.extractLsb' 0 k).toNat = w.toNat % 2 ^ k := by
  rw [toNat_field, Nat.pow_zero, Nat.div_one]

theorem toNat_ofW8 (w : Word) :
    (ofW8 w).r.toNat = 2 ^ 8 * (w.toNat / 2 ^ 16 % 2 ^ 8) ∧ (ofW8 w).g.toNat = 2 ^ 8 * (w.toNat / 2 ^ 8 % 2 ^ 8) ∧
      (ofW8 w).b.toNat = 2 ^ 8 * (w.toNat % 2 ^ 8) := by
  simp [ofW8, toNat_widen_field]

theorem toNat_ofW10 (w : Word) :
    (ofW10 w).r.toNat = 2 ^ 6 * (w.toNat / 2 ^ 20 % 2 ^ 10) ∧ (ofW10 w).g.toNat = 2 ^ 6 * (w.toNat / 2 ^ 10 % 2 ^ 10) ∧
      (ofW10 w).b.toNat = 2 ^ 6 * (w.toNat % 2 ^ 10) := by
  simp [ofW10, toNat_widen_field]

theorem toNat_ofPairDp {p : Nat} (hp : p ≤ 16) (lo hi : Word) :
    (ofPairDp p lo hi).r.toNat = 2 ^ (16 - p) * (hi.toNat % 2 ^ p) ∧
      (ofPairDp p lo hi).g.toNat = 2 ^ (16 - p) * (lo.toNat / 2 ^ 16 % 2 ^ p) ∧
      (ofPairDp p lo hi).b.toNat = 2 ^ (16 - p) * (lo.toNat % 2 ^ p) := by
  simp [ofPairDp, toNat_widen_field hp]

theorem toNat_ofPairI (lo hi : Word) :
    (ofPairI lo hi).r.toNat = 2 ^ 8 * (hi.toNat / 2 ^ 16 % 2 ^ 8) + lo.toNat / 2 ^ 16 % 2 ^ 8 ∧
      (ofPairI lo hi).g.toNat = 2 ^ 8 * (hi.toNat / 2 ^ 8 % 2 ^ 8) + lo.toNat / 2 ^ 8 % 2 ^ 8 ∧
      (ofPairI lo hi).b.toNat = 2 ^ 8 * (hi.toNat % 2 ^ 8) + lo.toNat % 2 ^ 8 := by
  simp [ofPairI, toNat_joinLanes_fields]

theorem toNat_ofPair12 (lo hi : Word) :
    (ofPair12 lo hi).r.toNat = 2 ^ 6 * (hi.toNat / 2 ^ 20 % 2 ^ 10) + lo.toNat / 2 ^ 24 % 2 ^ 6 ∧
      (ofPair12 lo hi).g.toNat = 2 ^ 6 * (hi.toNat / 2 ^ 10 % 2 ^ 10) + lo.toNat / 2 ^ 14 % 2 ^ 6 ∧
      (ofPair12 lo hi).b.toNat = 2 ^ 6 * (hi.toNat % 2 ^ 10) + lo.toNat / 2 ^ 4 % 2 ^ 6 := by
  simp [ofPair12, toNat_joinLanes_fields]

theorem toNat_ofMaxWords (r g b : Word) :
    (ofMaxWords r g b).r.toNat = r.toNat % 2 ^ 16 ∧ (ofMaxWords r g b).g.toNat = g.toNat % 2 ^ 16 ∧
      (ofMaxWords r g b).b.toNat = b.toNat % 2 ^ 16 :=
  ⟨toNat_lowField r 16, toNat_lowField g 16, toNat_lowField b 16⟩

/-! ### The shapes -/

/-- Settles O38: each entry is `ofW8` of its word. -/
theorem lutdecL8 : Obligations.LutdecL8 := by
  unfold Obligations.LutdecL8
  refine fun s hp => decodeLut_stores_or_refuses (sh := .l8) hp fun t ht i hi => ?_
  rw [ht (unpackLut_l8 _ _ hi)]
  exact toNat_ofW8 _

/-- Settles O40: P10 and both sizes and halves of S10 have the same entries, `ofW10` of their words. -/
theorem lutdecP10AndS10 : Obligations.LutdecP10AndS10 := by
  unfold Obligations.LutdecP10AndS10
  intro i sh entries s hp
  rintro (⟨rfl, rfl, rfl⟩ | ⟨half, ⟨rfl, rfl, rfl⟩ | ⟨rfl, rfl, rfl⟩⟩)
  · exact decodeLut_stores_or_refuses (sh := .p10) hp fun t ht j hj =>
      (ht (unpackLut_p10 _ _ hj)).symm ▸ toNat_ofW10 _
  · exact decodeLut_stores_or_refuses (sh := .s10 .h512 half) hp fun t ht j hj =>
      (ht (unpackLut_s10 _ _ .h512 half hj)).symm ▸ toNat_ofW10 _
  · exact decodeLut_stores_or_refuses (sh := .s10 .h1024 half) hp fun t ht j hj =>
      (ht (unpackLut_s10 _ _ .h1024 half hj)).symm ▸ toNat_ofW10 _

/-- Settles O42: each entry is its word's channel, three times. -/
theorem lutdecMono16 : Obligations.LutdecMono16 := by
  unfold Obligations.LutdecMono16
  refine fun s hp => decodeLut_stores_or_refuses (sh := .mono16) hp fun t ht i hi => ?_
  rw [ht (unpackLut_mono16 _ _ hi)]
  exact ⟨toNat_lowField _ 16, rfl, rfl⟩

/-- Settles O43: each entry is `ofPairDp` of its two words. -/
theorem lutdecDp : Obligations.LutdecDp := by
  unfold Obligations.LutdecDp
  intro s w hp
  simp only [State.columns, ← lutNeed_eq, ← dpBits_eq]
  refine decodeLut_stores_or_refuses (sh := .dp w) hp fun t ht i hi => ?_
  rw [ht (unpackLut_dp _ _ w hi)]
  exact toNat_ofPairDp (dpBits_le w) _ _

/-- Settles O39: the pairs are put together by `ofPairI`, the last entry is read from the max words. -/
theorem lutdecI10p6 : Obligations.LutdecI10p6 := by
  unfold Obligations.LutdecI10p6
  intro s hp
  have hlen : 1 ≤ s.params.tables.i10p6 := Nat.le_of_lt (lutNeed_bounds hp .i10p6).1
  simp only [Nat.sub_add_cancel hlen]
  refine decodeLut_stores_or_refuses (sh := .i10p6) hp fun t ht => ⟨fun i hi => ?_, ?_⟩
  · rw [ht (unpackLut_i10p6 _ _ hi)]
    exact toNat_ofPairI _ _
  · rw [ht (unpackLut_i10p6_max _ _)]
    exact toNat_ofMaxWords _ _ _

/-- Settles O41: the pairs are put together by `ofPair12`, the last entry is read from the max words. -/
theorem lutdecMs124 : Obligations.LutdecMs124 := by
  unfold Obligations.LutdecMs124
  refine fun s hp => decodeLut_stores_or_refuses (sh := .ms124) hp fun t ht => ⟨fun k hk => ?_, ?_⟩
  · rw [ht (unpackLut_ms124 _ _ hk)]
    exact toNat_ofPair12 _ _
  · rw [ht (unpackLut_ms124_max _ _)]
    exact toNat_ofMaxWords _ _ _

end Sys2Proof.Machine
end

section
/-! PROOFS. Packing and unpacking undo each other: an unpacked entry packed again gives its words back on the bits
LUTENC can set, and a packed entry unpacked again is the entry with the dropped bits zero. -/

namespace Sys2Proof.Machine

/-! ### Lanes and fields -/

@[simp] theorem field_lane_same {w k : Nat} (x : BitVec k) {pos : Nat} (h : pos + k ≤ w) :
    (lane w x pos).extractLsb' pos k = x := by
  ext i hi
  have hw : pos + i < w := by omega
  simp [hi, hw]

@[simp] theorem field_lane_above {w k : Nat} (x : BitVec k) {q pos len : Nat} (h : pos + len ≤ q) :
    (lane w x q).extractLsb' pos len = 0 := by
  ext i hi
  have hq : ¬q ≤ pos + i := by omega
  simp [hq]

@[simp] theorem field_lane_below {w k : Nat} (x : BitVec k) {q pos len : Nat} (h : q + k ≤ pos) :
    (lane w x q).extractLsb' pos len = 0 := by
  ext i hi
  simp [BitVec.getLsbD_of_ge x (pos + i - q) (by omega)]

/-- A field put back in its place is the word masked to that place. -/
theorem lane_field {w : Nat} (x : BitVec w) (pos k : Nat) :
    lane w (x.extractLsb' pos k) pos = x &&& lane w (BitVec.allOnes k) pos := by
  ext i hi
  by_cases hpos : pos ≤ i
  · simp [hpos, BitVec.getLsbD_eq_getElem hi, Bool.and_comm]
  · simp [hpos]

theorem lane_zero {k : Nat} (w : Nat) (x : BitVec k) : lane w x 0 = x.setWidth w := BitVec.shiftLeft_zero _

theorem lowField_setWidth (c : Chan) : (c.setWidth 32).extractLsb' 0 16 = c := by
  rw [← lane_zero, field_lane_same c (by decide)]

theorem narrow_widen {p : Nat} (hp : p ≤ 16) (x : BitVec p) : narrow p (widen p x) = x :=
  field_lane_same x (by omega)

theorem joinLanes_fields (c : Chan) {j k : Nat} (h : k + j = 16) :
    joinLanes k (c.extractLsb' k j) (c.extractLsb' 0 k) = c := by
  apply BitVec.eq_of_toNat_eq
  have hlt : c.toNat / 2 ^ k < 2 ^ j := Nat.div_lt_of_lt_mul (by rw [← Nat.pow_add, h]; exact c.isLt)
  rw [toNat_joinLanes k _ _ h.le le_rfl, toNat_field, toNat_field, Nat.mod_eq_of_lt hlt, Nat.pow_zero, Nat.div_one,
    Nat.div_add_mod]

theorem field_joinLanes_high {j k : Nat} (hi : BitVec j) (lo : BitVec k) (h : k + j = 16) :
    (joinLanes k hi lo).extractLsb' k j = hi := by
  rw [joinLanes, BitVec.extractLsb'_or, field_lane_same hi h.le, field_lane_below lo (by omega)]
  exact BitVec.or_zero

theorem field_joinLanes_low {j k : Nat} (hi : BitVec j) (lo : BitVec k) (h : k + j = 16) :
    (joinLanes k hi lo).extractLsb' 0 k = lo := by
  rw [joinLanes, BitVec.extractLsb'_or, field_lane_above hi (by omega), field_lane_same lo (by omega)]
  exact BitVec.zero_or

/-! ### A packed entry unpacked (40_codec.md R118, 41_lut_transcoder.md R157) -/

/-- An entry whose channels keep their top `p` bits. -/
def truncateEntry (p : Nat) (e : Entry) : Entry :=
  ⟨widen p (narrow p e.r), widen p (narrow p e.g), widen p (narrow p e.b)⟩

theorem ofW8_w8 (e : Entry) : ofW8 (w8 e) = truncateEntry 8 e := by
  simp [ofW8, w8, truncateEntry, BitVec.extractLsb'_or]

theorem ofW10_w10 (e : Entry) : ofW10 (w10 e) = truncateEntry 10 e := by
  simp [ofW10, w10, truncateEntry, BitVec.extractLsb'_or]

theorem ofPairDp_words {p : Nat} (hp : p ≤ 16) (e : Entry) :
    ofPairDp p (ldwDp p e) (udwDp p e) = truncateEntry p e := by
  simp (disch := omega) [ofPairDp, ldwDp, udwDp, truncateEntry, BitVec.extractLsb'_or]

theorem ofPairI_words (e : Entry) : ofPairI (ldwI e) (udwI e) = e := by
  simp [ofPairI, ldwI, udwI, BitVec.extractLsb'_or, joinLanes_fields]

theorem ofPair12_words (e : Entry) : ofPair12 (ldw12 e) (udw12 e) = e := by
  simp [ofPair12, ldw12, udw12, BitVec.extractLsb'_or, joinLanes_fields]

theorem ofMaxWords_words (e : Entry) : ofMaxWords (e.r.setWidth 32) (e.g.setWidth 32) (e.b.setWidth 32) = e := by
  rw [ofMaxWords, lowField_setWidth, lowField_setWidth, lowField_setWidth]

theorem ofMono_wMono (e : Entry) : ofMono (wMono e) = ⟨e.g, e.g, e.g⟩ := by
  rw [ofMono, wMono, lowField_setWidth]

/-! ### Unpacked entries packed again (R158) -/

theorem w8_ofW8 (w : Word) : w8 (ofW8 w) = w &&& 0x00FFFFFF := by
  simp only [ofW8, w8, narrow_widen, lane_field, ← BitVec.and_or_distrib_left, Nat.reduceLeDiff]
  rfl

theorem w10_ofW10 (w : Word) : w10 (ofW10 w) = w &&& 0x3FFFFFFF := by
  simp only [ofW10, w10, narrow_widen, lane_field, ← BitVec.and_or_distrib_left, Nat.reduceLeDiff]
  rfl

theorem ldwI_ofPairI (lo hi : Word) : ldwI (ofPairI lo hi) = lo &&& 0x00FFFFFF := by
  simp only [ofPairI, ldwI, field_joinLanes_low, lane_field, ← BitVec.and_or_distrib_left, Nat.reduceAdd]
  rfl

theorem udwI_ofPairI (lo hi : Word) : udwI (ofPairI lo hi) = hi &&& 0x00FFFFFF := by
  simp only [ofPairI, udwI, field_joinLanes_high, lane_field, ← BitVec.and_or_distrib_left, Nat.reduceAdd]
  rfl

theorem ldwDp_ofPairDp {p : Nat} (hp : p ≤ 16) (lo hi : Word) :
    ldwDp p (ofPairDp p lo hi) = lo &&& (lane 32 (BitVec.allOnes p) 16 ||| lane 32 (BitVec.allOnes p) 0) := by
  simp only [ofPairDp, ldwDp, narrow_widen hp, lane_field, ← BitVec.and_or_distrib_left]

theorem udwDp_ofPairDp {p : Nat} (hp : p ≤ 16) (lo hi : Word) :
    udwDp p (ofPairDp p lo hi) = hi &&& lane 32 (BitVec.allOnes p) 0 := by
  rw [udwDp, ofPairDp, narrow_widen hp, lane_field]

/-- A channel read from the bottom of a word and put back there. -/
theorem setWidth_lowField (w : Word) : (w.extractLsb' 0 16).setWidth 32 = w &&& 0x0000FFFF := by
  rw [← lane_zero, lane_field]
  rfl

end Sys2Proof.Machine
end

section
/-! PROOFS. The two laws of the transcoder: LUTENC then LUTDEC (O46), and LUTDEC then LUTENC (O47). -/

namespace Sys2Proof.Machine

/-! ### A packed table unpacked (41_lut_transcoder.md R157) -/

/-- What a shape keeps of an entry: the top bits of each channel, for MONO16 the green channel. -/
def keptEntry (sh : LutShape) (e : Entry) : Entry :=
  if sh = .mono16 then ⟨e.g, e.g, e.g⟩ else truncateEntry (keptBits sh) e

theorem keptBits_le (sh : LutShape) : keptBits sh ≤ 16 := by
  rcases sh with _ | _ | _ | ⟨⟨⟩, ⟨⟩⟩ | _ | _ | ⟨⟨⟩⟩ <;> decide

/-- Keeping the top `p` bits of a channel takes the others off. -/
theorem toNat_widen_narrow {p : Nat} (hp : p ≤ 16) (c : Chan) :
    (widen p (narrow p c)).toNat = c.toNat - c.toNat % 2 ^ (16 - p) := by
  have := Nat.div_add_mod c.toNat (2 ^ (16 - p))
  rw [toNat_widen hp, toNat_narrow hp]
  omega

/-- A shape that keeps 16 bits keeps the entry. -/
theorem truncateEntry_16 (e : Entry) : truncateEntry 16 e = e := by
  have hc : ∀ c : Chan, widen 16 (narrow 16 c) = c := fun c =>
    BitVec.eq_of_toNat_eq ((toNat_widen_narrow le_rfl c).trans (by simp [Nat.mod_one]))
  rw [truncateEntry, hc, hc, hc]

section
variable {len : TableLens} {n : Nat} {src : Nat → Entry} {word : Nat → Word}

/-- Entry `k` unpacked from the words of a packed table is what the shape keeps of the picked source entry. -/
theorem unpackLut_of_packed {sh : LutShape} (hlen : 1 ≤ len.i10p6) (hw : ReadsBack word (packLut len sh n src))
    {k : Nat} (hk : k < lutHwEntries len sh) :
    (unpackLut len sh word)[k]? = some (keptEntry sh (src (pickedIndex len sh n k))) := by
  cases sh with
  | l8 => rw [unpackLut_l8 _ _ hk, hw (packLut_l8 _ _ _ hk), ofW8_w8]; rfl
  | p10 => rw [unpackLut_p10 _ _ hk, hw (packLut_p10 _ _ _ hk), ofW10_w10]; rfl
  | s10 sz half =>
    rw [unpackLut_s10 _ _ sz half hk, hw (packLut_s10 _ _ _ sz half hk), ofW10_w10]
    cases sz <;> rfl
  | mono16 => rw [unpackLut_mono16 _ _ hk, hw (packLut_mono16 _ _ _ hk), ofMono_wMono]; rfl
  | dp w =>
    obtain ⟨hlo, hhi⟩ := packLut_dp len n src w hk
    rw [unpackLut_dp _ _ w hk, hw hlo, hw hhi, ofPairDp_words (dpBits_le w), dpBits_eq]
    rfl
  | i10p6 =>
    obtain hlt | rfl : k < len.i10p6 - 1 ∨ k = len.i10p6 - 1 := by
      have : k < len.i10p6 := hk
      omega
    · obtain ⟨hlo, hhi⟩ := packLut_i10p6 len n src hlt
      rw [unpackLut_i10p6 _ _ hlt, hw hlo, hw hhi, ofPairI_words]
      exact congrArg some (truncateEntry_16 _).symm
    · obtain ⟨hr, hg, hb⟩ := packLut_i10p6_max len n src
      rw [unpackLut_i10p6_max, hw hr, hw hg, hw hb, ofMaxWords_words]
      exact congrArg some (truncateEntry_16 _).symm
  | ms124 =>
    obtain hlt | rfl : k < 521 ∨ k = 521 := by
      have : k < 522 := hk
      omega
    · obtain ⟨hlo, hhi⟩ := packLut_ms124 len n src (ms124Picks_pickedIndex len n hlt)
      rw [unpackLut_ms124 _ _ hlt, hw hlo, hw hhi, ofPair12_words]
      exact congrArg some (truncateEntry_16 _).symm
    · obtain ⟨hr, hg, hb⟩ := packLut_ms124_max len n src
      rw [unpackLut_ms124_max, hw hr, hw hg, hw hb, ofMaxWords_words]
      exact congrArg some (truncateEntry_16 _).symm

end

/-- With `ID` every pick is inside the ramp. -/
theorem pickedIndex_lt {p : Params} (hp : p.wellFormed = true) {sh : LutShape} {k : Nat}
    (hk : k < lutHwEntries p.tables sh) :
    pickedIndex p.tables sh (lutNeed p.tables sh) k < lutNeed p.tables sh := by
  cases sh with
  | s10 sz half =>
    have hself := downsample_self (lutNeed_bounds hp (.s10 sz half)).1 k
    cases sz <;> exact hself.trans_lt hk
  | ms124 =>
    obtain hlt | rfl : k < 521 ∨ k = 521 := by
      have : k < 522 := hk
      omega
    · exact pickedIndex_ms124_lt hp _ hlt
    · exact Nat.sub_one_lt_of_lt (lutNeed_bounds hp .ms124).1
  | _ => exact hk

/-- The source entry picked for a hardware entry. -/
theorem sourceEntry_picked {s : State} (hp : s.params.wellFormed = true) (sh : LutShape) (ident : Bool) {k : Nat}
    (hk : k < lutHwEntries s.params.tables sh) :
    let picked := pickedIndex s.params.tables sh (s.sourceLen sh ident) k
    SourceEntry s ident (s.sourceLen sh ident) picked (s.source sh ident picked) := by
  cases ident with
  | false => exact .inl ⟨rfl, rfl⟩
  | true => exact sourceEntry_of_lt s sh true (pickedIndex_lt hp hk)

/-- Storing a table changes no launch parameter. -/
theorem TableStored.params {s t : State} {words base : Nat} (h : TableStored s t words base) : t.params = s.params :=
  (congrArg State.params h.1 :)

/-- Settles O46: the words LUTENC stores are the ones LUTDEC unpacks, entry by entry. -/
theorem encodeThenDecodeLoss : Obligations.EncodeThenDecodeLoss := by
  unfold Obligations.EncodeThenDecodeLoss
  simp only [exec_lutencOf, exec_lutdecOf, State.columns, ← lutNeed_eq, ← lutHwEntries_eq]
  intro sh ident s hp hsrc hf
  obtain ⟨t, hexec, hstored, hwords⟩ := encodeLut_readsBack hp hsrc hf.1
  have hparams := hstored.params
  obtain ⟨-, -, hhlen, -, -⟩ := hstored
  obtain ⟨u, hexec', hstored', hentries⟩ := decodeLut_readsBack (s := t) (sh := sh) (by rwa [hparams])
    (by rwa [hparams]) (by rwa [DecodeFits, State.columns, hparams])
  rw [hparams] at hstored' hentries
  obtain ⟨-, hok, hclen, -⟩ := hstored'
  refine ⟨t, u, hexec, hexec', hok, hclen, fun k hk => ⟨_, sourceEntry_picked hp sh ident hk, ?_⟩⟩
  have hlen : 1 ≤ s.params.tables.i10p6 := Nat.le_of_lt (lutNeed_bounds hp .i10p6).1
  rw [hentries (unpackLut_of_packed hlen hwords hk), keptEntry]
  refine ⟨fun hmono => ?_, fun hmono => ?_⟩
  · rw [if_pos hmono]
    exact ⟨rfl, rfl, rfl⟩
  · rw [if_neg hmono]
    have hkept := toNat_widen_narrow (keptBits_le sh)
    exact ⟨hkept _, hkept _, hkept _⟩

/-! ### An unpacked table packed (41_lut_transcoder.md R157, R158) -/

section
variable {len : TableLens} {n : Nat} {src : Nat → Entry} {word : Nat → Word}

/-- The words of a pair of DP packed again. -/
theorem dp_settable (w : DpWidth) (lo hi : Word) (i : Nat) :
    ldwDp (dpBits w) (ofPairDp (dpBits w) lo hi) = lo &&& settableBits len (.dp w) (2 * i) ∧
      udwDp (dpBits w) (ofPairDp (dpBits w) lo hi) = hi &&& settableBits len (.dp w) (2 * i + 1) := by
  rw [ldwDp_ofPairDp (dpBits_le w), udwDp_ofPairDp (dpBits_le w)]
  have heven : 2 * i % 2 = 0 := by omega
  have hodd : (2 * i + 1) % 2 ≠ 0 := by omega
  cases w <;> simp only [settableBits, if_pos heven, if_neg hodd] <;> exact ⟨rfl, rfl⟩

/-- Word `j` packed from the entries of an unpacked table is the word they came from, on the bits LUTENC can set. MS124
has fewer hardware entries than source entries. -/
theorem packLut_of_unpacked {sh : LutShape} (hsh : sh ≠ .ms124) (hn : n = lutNeed len sh) (h2 : 2 ≤ n)
    (hsrc : ReadsBack src (unpackLut len sh word)) {j : Nat} (hj : j < lutWords len sh) :
    (packLut len sh n src)[j]? = some (word j &&& settableBits len sh j) := by
  cases sh with
  | ms124 => exact absurd rfl hsh
  | l8 => rw [packLut_l8 _ _ _ hj, hsrc (unpackLut_l8 _ _ hj), w8_ofW8]; rfl
  | p10 => rw [packLut_p10 _ _ _ hj, hsrc (unpackLut_p10 _ _ hj), w10_ofW10]; rfl
  | s10 sz half =>
    have hself : downsample n (halfEntries len sz) j = j := hn ▸ downsample_self h2 j
    rw [packLut_s10 _ _ _ sz half hj, hself, hsrc (unpackLut_s10 _ _ sz half hj), w10_ofW10]
    rfl
  | mono16 =>
    rw [packLut_mono16 _ _ _ hj, hsrc (unpackLut_mono16 _ _ hj)]
    exact congrArg some (setWidth_lowField _)
  | dp w =>
    have hj : j < 2 * dpEntries len w := hj
    obtain ⟨i, rfl | rfl⟩ := Nat.even_or_odd' j
    all_goals
      have hi : i < dpEntries len w := by omega
      have he := hsrc (unpackLut_dp _ _ w hi)
    · rw [(packLut_dp len n src w hi).1, he, (dp_settable w _ _ i).1]
    · rw [(packLut_dp len n src w hi).2, he, (dp_settable w _ _ i).2]
  | i10p6 =>
    have hj : j < 2 * (len.i10p6 - 1) + 3 := hj
    rw [settableBits]
    by_cases hpair : j < 2 * (len.i10p6 - 1)
    · rw [if_pos hpair]
      obtain ⟨i, rfl | rfl⟩ := Nat.even_or_odd' j
      all_goals
        have hi : i < len.i10p6 - 1 := by omega
        have he := hsrc (unpackLut_i10p6 _ _ hi)
      · rw [(packLut_i10p6 len n src hi).1, he, ldwI_ofPairI]
      · rw [(packLut_i10p6 len n src hi).2, he, udwI_ofPairI]
    · rw [if_neg hpair]
      obtain ⟨hr, hg, hb⟩ := packLut_i10p6_max len n src
      rw [hsrc (unpackLut_i10p6_max len word)] at hr hg hb
      obtain rfl | rfl | rfl : j = 2 * (len.i10p6 - 1) ∨ j = 2 * (len.i10p6 - 1) + 1 ∨ j = 2 * (len.i10p6 - 1) + 2 := by
        omega
      · exact hr.trans (congrArg some (setWidth_lowField _))
      · exact hg.trans (congrArg some (setWidth_lowField _))
      · exact hb.trans (congrArg some (setWidth_lowField _))

end

/-- Storing entries changes no launch parameter. -/
theorem EntriesStored.params {s t : State} {count : Nat} (h : EntriesStored s t count) : t.params = s.params :=
  (congrArg State.params h.1 :)

/-- But for MS124 a shape has as many hardware entries as source entries (R130). -/
theorem lutHwEntries_eq_lutNeed (len : TableLens) {sh : LutShape} (h : sh ≠ .ms124) :
    lutHwEntries len sh = lutNeed len sh := by
  cases sh with
  | ms124 => exact absurd rfl h
  | _ => rfl

/-- Every shape accepts its own source length. -/
theorem sourceAccepted_of_need {s : State} {sh : LutShape} (hp : s.params.wellFormed = true)
    (hn : s.clen0.toNat = lutNeed s.params.tables sh) (hcap : s.clen0.toNat ≤ s.params.clutCap) :
    SourceAccepted s sh := by
  refine ⟨hcap, ?_⟩
  cases sh with
  | s10 sz half =>
    have := (lutNeed_bounds hp (.s10 sz half)).1
    exact hn ▸ Nat.le_of_lt this
  | _ => exact hn.trans (lutNeed_eq _ _)

/-- MS124 accepts its source length only. -/
theorem not_sourceAccepted_ms124 {s : State} (h : s.clen0.toNat ≠ s.params.tables.ms) :
    ¬(false = true ∨ SourceAccepted s .ms124) := by
  rintro (h' | ⟨-, h'⟩)
  · exact Bool.false_ne_true h'
  · exact h h'

/-- Settles O47: the entries LUTDEC stores are the ones LUTENC packs; the 522 of MS124 are no source length. -/
theorem decodeThenEncodeReproduces : Obligations.DecodeThenEncodeReproduces := by
  unfold Obligations.DecodeThenEncodeReproduces
  simp only [exec_lutencOf, exec_lutdecOf, State.columns, ← lutWords_eq]
  intro sh s hp hhlen hf
  obtain ⟨t, hexec, hstored, hentries⟩ := decodeLut_readsBack hp hhlen hf
  have hparams := hstored.params
  obtain ⟨-, -, hclen, -⟩ := hstored
  have hpt : t.params.wellFormed = true := by rwa [hparams]
  by_cases hsh : sh = .ms124
  case pos =>
    subst hsh
    have hclen : t.clen0.toNat = 522 := hclen
    have hms := ms_gt_of_wellFormed hp
    obtain ⟨u, hexec', hraised⟩ := encodeLut_mismatch hpt (not_sourceAccepted_ms124 (s := t) (by rw [hparams]; omega))
    rw [hclen, hparams] at hraised
    exact ⟨t, u, hexec, hexec', fun _ => hraised, absurd rfl⟩
  case neg =>
    have hneed : t.clen0.toNat = lutNeed s.params.tables sh := hclen.trans (lutHwEntries_eq_lutNeed _ hsh)
    have hcap : t.clen0.toNat ≤ s.params.clutCap := by
      rw [hclen, lutHwEntries_eq]
      exact hf.2
    obtain ⟨u, hexec', hstored', hwords⟩ := encodeLut_readsBack (s := t) (sh := sh) (ident := false) hpt
      (.inr (sourceAccepted_of_need hpt (by rwa [hparams]) (by rwa [hparams])))
      (by rw [EncodeFits, State.columns, hparams]; exact hf.1)
    obtain ⟨-, hok, hulen, -, -⟩ := hstored'
    rw [hparams] at hulen hwords
    refine ⟨t, u, hexec, hexec', fun h => absurd h hsh,
      fun _ => ⟨hok, BitVec.eq_of_toNat_eq (hulen.trans hhlen.symm), fun j hj => hwords ?_⟩⟩
    exact packLut_of_unpacked hsh hneed (hneed ▸ (lutNeed_bounds hp sh).1) hentries hj

end Sys2Proof.Machine
end

section
/-! PROOFS. TOPOSEL: the configurations answered before the family is looked at (O48, O49), the family mappings (O50 to
O54), and what holds of every result (O55, O56). -/

namespace Sys2Proof.Machine

/-! ### Before the family mapping (42_topology.md R184 to R187, R202) -/

section
variable {s : State}

/-- R187, R202: no profile or the reserved output format is answered first. -/
theorem select_illFormed (h : s.params.profiles[s.gen.toNat]? = none ∨ s.cfg.toNat / 8 % 4 = 3) :
    select s.profile? s.cfg s.gamlen = .error .unsupportedCombination := by
  rw [← cfgOutFmt_eq_three] at h
  simp only [select, State.profile?]
  split
  · rfl
  · next hp =>
    rw [hp] at h
    exact if_pos (h.resolve_left nofun)

variable {p : Profile} (hp : s.params.profiles[s.gen.toNat]? = some p) (hfmt : s.cfg.toNat / 8 % 4 ≠ 3)
include hp hfmt

/-- R186: the legacy configuration is answered before C8 and before the family is looked at. -/
theorem select_legacy (hleg : isLegacy s.cfg s.gamlen = true) :
    select s.profile? s.cfg s.gamlen = .ok legacyTopology := by
  rw [ne_eq, ← cfgOutFmt_eq_three] at hfmt
  simp only [select, State.profile?, hp]
  rw [if_neg hfmt, if_pos hleg]

/-- R187: C8 with anything but the legacy LUT is answered before the family is looked at. -/
theorem select_indexed (hleg : isLegacy s.cfg s.gamlen = false) (hx : s.cfg.getLsbD 6 = true) :
    select s.profile? s.cfg s.gamlen = .error .incompatibleIndexedMode := by
  rw [ne_eq, ← cfgOutFmt_eq_three] at hfmt
  simp only [select, State.profile?, hp]
  rw [if_neg hfmt, if_neg (by simp [hleg])]
  exact if_pos hx

end

/-- Settles O48: the legacy test passes, and the legacy topology has these six results. -/
theorem legacyOnEveryTag : Obligations.LegacyOnEveryTag := by
  unfold Obligations.LegacyOnEveryTag
  intro s p hp hfmt hg hlen hd hc
  have hleg : isLegacy s.cfg s.gamlen = true := (isLegacy_iff _ _).mpr ⟨hg, hlen, hd, hc⟩
  exact toposelGives_of_select (select_legacy hp hfmt hleg) rfl rfl rfl rfl rfl rfl

/-- Settles O49: the two faults are the first answers of `select`, the legacy one between them. -/
theorem toposelFaults : Obligations.ToposelFaults := by
  unfold Obligations.ToposelFaults
  refine ⟨fun s h => toposel_rejected (select_illFormed h) (.inl rfl), fun s p hp hfmt hx hleg => ?_⟩
  rw [← isLegacy_iff, Bool.not_eq_true] at hleg
  exact toposel_rejected (select_indexed hp hfmt hleg hx) (.inr rfl)

/-! ### The family mappings (42_topology.md R195 to R201) -/

/-- The request `CFG` makes, in the words of claims (R181). -/
def State.request (s : State) : Request :=
  ⟨s.cfg.getLsbD 0, s.cfg.getLsbD 1, s.cfg.getLsbD 2, s.wantsYcbcr, s.cfg.getLsbD 5⟩

theorem requestOf_eq (s : State) : requestOf s.cfg = s.request := by
  rw [State.request, ← cfgYcbcr_eq]
  rfl

/-- The results of TOPOSEL as numbers (R189), of `LUTFMT` the degamma byte in its place and the gamma byte: the third
field is the profile's own. -/
structure TopologyNumbers where
  topo : Nat
  gammaMode : Nat
  cscMode : Nat
  cgmMode : Nat
  prec : Nat
  dshape : Nat
  gshape : Nat
  deriving DecidableEq

/-- The numbers a topology stores. -/
def Topology.numbers (r : Topology) : TopologyNumbers where
  topo := r.word.toNat
  gammaMode := r.gammaMode.toNat
  cscMode := r.cscMode.toNat
  cgmMode := r.cgmMode.toNat
  prec := r.precision.toNat
  dshape := (shapeByte r.degammaShape).toNat * 2 ^ 8
  gshape := (shapeByte r.gammaShape).toNat

/-- `LUTFMT` with a profile's coefficient format. -/
theorem Topology.toNat_lutfmt_cfmt (r : Topology) (p : Profile) :
    ({ r with cfmt := p.cfmt } : Topology).lutfmt.toNat =
      cfmtField p + (shapeByte r.degammaShape).toNat * 2 ^ 8 + (shapeByte r.gammaShape).toNat := by
  have hcfmt : (cfmtCode p.cfmt).toNat * 2 ^ 16 = cfmtField p := by
    unfold cfmtField
    cases p.cfmt <;> rfl
  rw [Topology.toNat_lutfmt, hcfmt]

section
variable {s : State} {p : Profile} {f : Family} (hd : Dispatched s p) (hf : p.family = f)
include hd hf

/-- A request the family does not accept changes `STATUS` only (R188). -/
theorem Dispatched.rejected (hr : familyMap f p.limCsc s.request = none) :
    ∃ t, exec .toposel s = .next t ∧ OnlyStatus s t 4 :=
  toposel_rejected (by rw [select_dispatched hd, hf, requestOf_eq, hr]) (.inl rfl)

/-- A request the family accepts gives its mapping's results, with the profile's coefficient format. -/
theorem Dispatched.gives {topo gammaMode cscMode cgmMode prec dshape gshape : Nat}
    (hr : (familyMap f p.limCsc s.request).map Topology.numbers =
      some ⟨topo, gammaMode, cscMode, cgmMode, prec, dshape, gshape⟩) :
    ToposelGives s topo gammaMode cscMode cgmMode prec (cfmtField p + dshape + gshape) := by
  obtain ⟨r, hr, hnumbers⟩ := Option.map_eq_some_iff.mp hr
  have hselect : select s.profile? s.cfg s.gamlen = .ok { r with cfmt := p.cfmt } := by
    rw [select_dispatched hd, hf, requestOf_eq, hr]
  cases hnumbers
  rw [← Topology.toNat_lutfmt_cfmt]
  apply toposelGives_of_select hselect <;> rw [BitVec.ofNat_toNat, BitVec.setWidth_eq] <;> rfl

end

/-- Settles O50: the request is rejected, or it is one of the mapping's two rows, with a gamma LUT and without. -/
theorem toposelTableOnlyFamilies : Obligations.ToposelTableOnlyFamilies := by
  unfold Obligations.ToposelTableOnlyFamilies
  intro s p hd
  refine ⟨fun hf => ?_, fun hf => ?_, fun hf => ?_⟩
  case refine_1 =>
    split
    · next h => exact hd.rejected hf (if_pos h)
    · next h => exact hd.gives hf (congrArg (Option.map Topology.numbers) (if_neg h))
  all_goals
    split
    · next h => exact hd.rejected hf (if_pos h)
    · next h =>
      split
      · next hg => exact hd.gives hf (congrArg (Option.map Topology.numbers) ((if_neg h).trans (if_pos hg)))
      · next hg => exact hd.gives hf (congrArg (Option.map Topology.numbers) ((if_neg h).trans (if_neg hg)))

/-! The four families with a CSC: a mapping's numbers are a function of the five bits of the request and of `LIMCSC`,
and agree with a claim's on every value of those. -/

/-- Settles O51: the mapping's numbers, on every request without YCbCr. -/
theorem toposelChv : Obligations.ToposelChv := by
  unfold Obligations.ToposelChv
  intro s p hd hf d g c
  split
  case isTrue hy => exact hd.rejected hf (if_pos hy)
  case isFalse hy =>
    refine hd.gives hf ?_
    subst d g c
    rw [State.request]
    generalize s.cfg.getLsbD 0 = d, s.cfg.getLsbD 1 = g, s.cfg.getLsbD 2 = c, s.wantsYcbcr = y, s.cfg.getLsbD 5 = l,
      p.limCsc = lim at hy ⊢
    decide +revert

/-- Settles O52: the mapping's numbers, on every request. -/
theorem toposelIvb : Obligations.ToposelIvb := by
  unfold Obligations.ToposelIvb
  intro s p hd hf
  refine hd.gives hf ?_
  rw [State.request]
  generalize s.cfg.getLsbD 0 = d, s.cfg.getLsbD 1 = g, s.cfg.getLsbD 2 = c, s.wantsYcbcr = y, s.cfg.getLsbD 5 = l,
    p.limCsc = lim
  decide +revert

/-- Settles O53: the mapping's numbers, on every request. -/
theorem toposelGlk : Obligations.ToposelGlk := by
  unfold Obligations.ToposelGlk
  intro s p hd hf
  refine hd.gives hf ?_
  rw [State.request]
  generalize s.cfg.getLsbD 0 = d, s.cfg.getLsbD 1 = g, s.cfg.getLsbD 2 = c, s.wantsYcbcr = y, s.cfg.getLsbD 5 = l,
    p.limCsc = lim
  decide +revert

/-- Settles O54: the mapping's numbers, on every request. -/
theorem toposelIcl : Obligations.ToposelIcl := by
  unfold Obligations.ToposelIcl
  intro s p hd hf
  refine hd.gives hf ?_
  rw [State.request]
  generalize s.cfg.getLsbD 0 = d, s.cfg.getLsbD 1 = g, s.cfg.getLsbD 2 = c, s.wantsYcbcr = y, s.cfg.getLsbD 5 = l,
    p.limCsc = lim
  decide +revert

/-! ### Every OK result (42_topology.md R203, R208) -/

section
variable (r : Topology)

/-- The bits of `TOPO` (10_state.md R34). -/
theorem Topology.word_bits :
    r.word.getLsbD 4 = r.enDegamma ∧ r.word.getLsbD 5 = r.enPipeGamma ∧ r.word.getLsbD 6 = r.enPipeCsc ∧
      r.word.getLsbD 7 = r.enOutCsc ∧ r.word.getLsbD 9 = r.identDegamma ∧ r.word.getLsbD 10 = r.legacy ∧
      r.word.getLsbD 11 = r.limComp := by
  simp [Topology.word]

/-- The two `VALID` bits of `LUTFMT` (10_state.md R37). -/
theorem Topology.lutfmt_valid :
    r.lutfmt.getLsbD 7 = shapeByteValid (shapeByte r.gammaShape) ∧
      r.lutfmt.getLsbD 15 = shapeByteValid (shapeByte r.degammaShape) := by
  rw [← r.gamma_lutfmt, ← r.degamma_lutfmt]
  simp [shapeByteValid, lutfmtGamma, lutfmtDegamma]

/-- The precision is the gamma stage's (R192). -/
theorem Topology.enPipeGamma_of_precision (h : r.precision ≠ 0) : r.enPipeGamma = true := by
  by_contra hg
  exact h (if_pos (by simpa using hg))

variable {r}

/-- How the results of a topology agree with one another (R208). -/
theorem Topology.agree_of_resultsLegal (h : r.resultsLegal = true) :
    (r.legacy = true → r.word = 0x421) ∧ (r.limComp = true → r.enPipeCsc = true) ∧
      (r.identDegamma = true → r.enDegamma = true) ∧ r.lutfmt.getLsbD 7 = r.enPipeGamma ∧
      r.lutfmt.getLsbD 15 = r.enDegamma := by
  simp only [Topology.resultsLegal, topologyLegal, topoLegacy, topoLimComp, topoEnPipeCsc, topoIdentDegamma,
    topoEnDegamma, topoEnPipeGamma, r.word_bits, r.gamma_lutfmt, r.degamma_lutfmt, Bool.and_eq_true,
    beq_iff_eq] at h
  obtain ⟨⟨⟨⟨⟨⟨⟨⟨⟨⟨-, hlegacy⟩, hlim⟩, hident⟩, -⟩, -⟩, hgamma⟩, hdegamma⟩, -⟩, -⟩, -⟩ := h
  rw [r.lutfmt_valid.1, r.lutfmt_valid.2]
  exact ⟨by simpa [imp_iff_not_or] using hlegacy, by simpa [imp_iff_not_or] using hlim,
    by simpa [imp_iff_not_or] using hident, hgamma, hdegamma⟩

end

/-- Which families set what (R195 to R201, R203): each output at the mappings that list it. -/
theorem familyMap_sets {f : Family} {lim : Bool} {q : Request} {r : Topology} (h : familyMap f lim q = some r) :
    r.legacy = false ∧ (r.enOutCsc = true → f = .icl) ∧ (r.cgmMode ≠ 0 → f = .chv) ∧
      (r.identDegamma = true → f = .glk ∧ q.d = false) ∧
      (r.limComp = true ↔ (f = .ivb ∨ f = .glk) ∧ q.l = true ∧ lim = true) := by
  cases f with
  | i9xx =>
    obtain ⟨-, rfl⟩ := by simpa [familyMap, mapI9xx] using h
    simp
  | i965 | ilk =>
    obtain ⟨-, h⟩ := Option.ite_none_left_eq_some.mp h
    split at h <;> cases h <;> simp
  | chv =>
    obtain ⟨-, h⟩ := Option.ite_none_left_eq_some.mp h
    cases h
    simp
  | ivb | glk | icl =>
    cases h
    simp

/-- In a well-formed launch only the two families that report the compression have `LIMCSC` set (log entry 11). -/
theorem family_of_limCsc {params : Params} {p : Profile} {i : Nat} (hwf : params.wellFormed = true)
    (hp : params.profiles[i]? = some p) (hlim : p.limCsc = true) : p.family = .ivb ∨ p.family = .glk := by
  have hfits : params.limCscFits = true := by
    simp only [Params.wellFormed, Bool.and_eq_true] at hwf
    obtain ⟨⟨⟨⟨-, h⟩, -⟩, -⟩, -⟩ := hwf
    exact h
  simpa [Profile.limCscFits, hlim] using List.all_eq_true.mp hfits p (List.mem_of_getElem? hp)

/-- An OK end stored what `select` answered: a fault's code is not 0. -/
theorem execToposel_endsOk {s t : State} (h : execToposel s = .next t) (h0 : EndsWith s t 0) :
    ∃ r, select s.profile? s.cfg s.gamlen = .ok r ∧ t = s.storeTopology r := by
  refine (execToposel_cases h).resolve_left ?_
  rintro ⟨f, -, rfl⟩
  have hf : f.code.toNat = 0 := (EndsWith.of_raise rfl).unique h0
  have := f.code_range
  omega

/-- Settles O55: the legacy topology is one value; a family's mapping sets what its family may, and `LIMCSC` is set for
no family but the two that report it. -/
theorem toposelResultInvariants : Obligations.ToposelResultInvariants := by
  unfold Obligations.ToposelResultInvariants
  intro s t p hwf hp h h0
  obtain ⟨r, hselect, rfl⟩ := execToposel_endsOk h h0
  obtain ⟨hlegacy, hcsc, hident, hgamma, hdegamma⟩ := Topology.agree_of_resultsLegal (resultsLegal_of_select hselect)
  simp only [State.storeTopology_topo, State.storeTopology_cgmMode, State.storeTopology_prec,
    State.storeTopology_lutfmt, r.word_bits]
  obtain ⟨p', hp', -, ⟨-, rfl⟩ | ⟨-, -, m, hm, rfl⟩⟩ := select_ok hselect
  case inl =>
    refine ⟨hlegacy, ?_, ?_, ?_, ?_, Topology.enPipeGamma_of_precision _, hgamma, hdegamma⟩ <;> simp [legacyTopology]
  case inr =>
    obtain rfl : p = p' := Option.some_inj.mp (hp.symm.trans hp')
    obtain ⟨hnot, hout, hcgm, hidentOf, hlimOf⟩ := familyMap_sets hm
    refine ⟨hlegacy, hout, hcgm, fun hi => ⟨(hidentOf hi).1, hident hi, (hidentOf hi).2⟩, ⟨?_, ?_⟩,
      Topology.enPipeGamma_of_precision _, hgamma, hdegamma⟩
    · intro hlim
      obtain ⟨-, hlimited, hlimCsc⟩ := hlimOf.mp hlim
      exact ⟨hnot, hlimited, hlimCsc, hcsc hlim⟩
    · rintro ⟨-, hlimited, hlimCsc, -⟩
      exact hlimOf.mpr ⟨family_of_limCsc hwf hp hlimCsc, hlimited, hlimCsc⟩

/-- Settles O56: `select` answers both runs alike, a fault with one of two codes or a topology. -/
theorem toposelIsAFunctionOfItsInputs : Obligations.ToposelIsAFunctionOfItsInputs := by
  unfold Obligations.ToposelIsAFunctionOfItsInputs
  intro s s' hgen hcfg hlen hprofiles
  have hsame : select s'.profile? s'.cfg s'.gamlen = select s.profile? s.cfg s.gamlen := by
    rw [State.profile?, State.profile?, hgen, hcfg, hlen, hprofiles]
  simp only [exec, execToposel, hsame]
  cases hselect : select s.profile? s.cfg s.gamlen with
  | error f =>
    refine ⟨s.raise f, s'.raise f, f.code.toNat, rfl, rfl, ?_, EndsWith.of_raise rfl, EndsWith.of_raise rfl, ?_⟩
    · rcases select_error hselect with rfl | rfl <;> decide
    · have := f.code_range
      omega
  | ok r =>
    have hok (s : State) : EndsWith s (s.storeTopology r) 0 := EndsWith.of_finish (code := codeOk) (by decide) rfl
    exact ⟨s.storeTopology r, s'.storeTopology r, 0, rfl, rfl, by decide, hok s, hok s',
      fun _ => ⟨rfl, rfl, rfl, rfl, rfl, rfl⟩⟩

end Sys2Proof.Machine
end

section
/-! PROOFS. LUTCMP (O58), and a LUT compared with its own round trip (O59). -/

namespace Sys2Proof.Machine

/-! ### Channels and entries that match (43_equality.md R231) -/

theorem chanMatch_iff (p : BitVec 5) (x y : Chan) : chanMatch (tolerance p) x y = true ↔ ChannelClose p.toNat x y := by
  have hdist : max x.toNat y.toNat - min x.toNat y.toNat = ((x.toNat : Int) - y.toNat).natAbs := by omega
  rw [chanMatch, decide_eq_true_iff, ChannelClose, tolerance, Nat.shiftRight_eq_div_pow, hdist]

theorem entryMatch_iff (s : State) (i : Nat) :
    entryMatch (tolerance s.precIn) (s.readEntry .clut0 i) (s.readEntry .clut1 i) = true ↔ s.EntriesClose i := by
  simp only [entryMatch, Bool.and_eq_true, chanMatch_iff, State.EntriesClose, and_assoc]

/-- The search finds nothing exactly when every entry below `n` matches. -/
theorem firstMismatch_eq_none_iff {s : State} {n : Nat} :
    s.firstMismatch (tolerance s.precIn) n = none ↔ ∀ i, i < n → s.EntriesClose i := by
  simp only [State.firstMismatch, List.find?_range_eq_none, Bool.not_not, entryMatch_iff]

/-- The search finds `i` exactly when `i` is the lowest index below `n` that does not match. -/
theorem firstMismatch_eq_some_iff {s : State} {n i : Nat} :
    s.firstMismatch (tolerance s.precIn) n = some i ↔
      i < n ∧ ¬s.EntriesClose i ∧ ∀ j, j < i → s.EntriesClose j := by
  simp only [State.firstMismatch, List.find?_range_eq_some, Bool.not_not, entryMatch_iff, List.mem_range,
    Bool.not_eq_true', ← Bool.not_eq_true]
  exact and_left_comm

/-! ### The four ways LUTCMP can end (R232) -/

section
variable {s : State}

/-- A length above the capacity faults with the capacity and the longer length. -/
theorem execLutcmp_above (hp : s.params.wellFormed = true)
    (h : s.params.clutCap < s.clen0.toNat ∨ s.params.clutCap < s.clen1.toNat) :
    ∃ t, execLutcmp s = .next t ∧ SizeMismatchRaised s t s.params.clutCap (max s.clen0.toNat s.clen1.toNat) := by
  obtain ⟨hcap, -⟩ := Params.caps_of_wellFormed hp
  have hmax : max s.clen0.toNat s.clen1.toNat < 2 ^ 32 := max_lt s.clen0.isLt s.clen1.isLt
  refine ⟨_, by rw [execLutcmp, if_pos h], EndsWith.of_raise (f := .sizeMismatch _ _) rfl, ?_, ?_, rfl⟩
  · exact Nat.mod_eq_of_lt hcap
  · exact Nat.mod_eq_of_lt hmax

variable (h0 : s.clen0.toNat ≤ s.params.clutCap) (h1 : s.clen1.toNat ≤ s.params.clutCap)
include h0 h1

theorem execLutcmp_lengths_ne (hne : s.clen0 ≠ s.clen1) : execLutcmp s = .next (s.storeCompare 0 0xFFFFFFFF) := by
  rw [execLutcmp, if_neg (by omega), if_pos (mt BitVec.eq_of_toNat_eq hne)]

theorem execLutcmp_mismatch (heq : s.clen0 = s.clen1) {i : Nat} (hi : i < s.clen0.toNat) (hmis : ¬s.EntriesClose i)
    (hlow : ∀ j, j < i → s.EntriesClose j) : execLutcmp s = .next (s.storeCompare 0 (BitVec.ofNat 32 i)) := by
  rw [execLutcmp, if_neg (by omega), if_neg (by simp [heq]), firstMismatch_eq_some_iff.mpr ⟨hi, hmis, hlow⟩]

theorem execLutcmp_equal (heq : s.clen0 = s.clen1) (hall : ∀ i, i < s.clen0.toNat → s.EntriesClose i) :
    execLutcmp s = .next (s.storeCompare 1 0) := by
  rw [execLutcmp, if_neg (by omega), if_neg (by simp [heq]), firstMismatch_eq_none_iff.mpr hall]

end

/-- Storing a comparison ends OK. -/
theorem endsWith_storeCompare (s : State) (equal : BitVec 1) (idx : Word) : EndsWith s (s.storeCompare equal idx) 0 :=
  EndsWith.of_finish (code := codeOk) (by decide) rfl

/-- Two indices that are both the lowest without a match are the same. -/
theorem firstMismatch_unique {s : State} {i k : Nat} (hi : ¬s.EntriesClose i) (hlowi : ∀ j, j < i → s.EntriesClose j)
    (hk : ¬s.EntriesClose k) (hlowk : ∀ j, j < k → s.EntriesClose j) : i = k :=
  le_antisymm (not_lt.mp fun h => hk (hlowi k h)) (not_lt.mp fun h => hi (hlowk i h))

/-- Settles O58: the lengths differ, the search finds a first mismatch, or it finds none. -/
theorem lutcmpReports : Obligations.LutcmpReports := by
  unfold Obligations.LutcmpReports
  refine fun s hp => ⟨execLutcmp_above hp, fun h0 h1 => ?_⟩
  by_cases heq : s.clen0 = s.clen1
  · cases hfirst : s.firstMismatch (tolerance s.precIn) s.clen0.toNat with
    | some k =>
      obtain ⟨hk, hmis, hlow⟩ := firstMismatch_eq_some_iff.mp hfirst
      refine ⟨_, execLutcmp_mismatch h0 h1 heq hk hmis hlow, endsWith_storeCompare s _ _, rfl,
        fun hne => absurd heq hne, fun i _ _ hi hlowi => ⟨rfl, ?_⟩, fun _ hall => absurd (hall k hk) hmis⟩
      rw [firstMismatch_unique hi hlowi hmis hlow]
      exact Nat.mod_eq_of_lt (hk.trans s.clen0.isLt)
    | none =>
      have hall := firstMismatch_eq_none_iff.mp hfirst
      exact ⟨_, execLutcmp_equal h0 h1 heq hall, endsWith_storeCompare s _ _, rfl, fun hne => absurd heq hne,
        fun i _ hi hmis _ => absurd (hall i hi) hmis, fun _ _ => ⟨rfl, rfl⟩⟩
  · exact ⟨_, execLutcmp_lengths_ne h0 h1 heq, endsWith_storeCompare s _ _, rfl, fun _ => ⟨rfl, rfl⟩,
      fun _ h => absurd h heq, fun h => absurd h heq⟩

/-! ### A LUT and its round trip (R231, 41_lut_transcoder.md R157) -/

/-- No operation writes what LUTCMP compares with: the precision, the length of `CLUT1` and the launch parameters. -/
theorem exec_compareInputs {i : Instr} {s t : State} (h : exec i s = .next t) :
    t.precIn = s.precIn ∧ t.clen1 = s.clen1 ∧ t.params = s.params := by
  rcases exec_cases h with ⟨_, rfl⟩ | rfl | ⟨_, _, _, _, rfl⟩ | ⟨_, rfl⟩ | ⟨_, _, -, rfl⟩ | ⟨_, -, rfl⟩ | ⟨_, -, rfl⟩ |
    ⟨_, rfl⟩ | rfl
  all_goals exact ⟨rfl, rfl, rfl⟩

/-- What is lost of a channel that keeps its top `b` bits is within the tolerance at any precision up to `b`, and at any
precision when nothing is lost. -/
theorem channelClose_kept {b p : Nat} (hb : b ≤ 16) (hp : b = 16 ∨ p ≤ b) {x y : Chan}
    (h : x.toNat = y.toNat - y.toNat % 2 ^ (16 - b)) : ChannelClose p x y := by
  have hle : y.toNat % 2 ^ (16 - b) ≤ y.toNat := Nat.mod_le _ _
  have hlost : ((x.toNat : Int) - y.toNat).natAbs = y.toNat % 2 ^ (16 - b) := by omega
  rw [ChannelClose, hlost]
  rcases hp with rfl | hp
  · simp [Nat.mod_one]
  · have hlt : y.toNat % 2 ^ (16 - b) < 2 ^ (16 - b) := Nat.mod_lt _ (Nat.two_pow_pos _)
    have hscaled : (y.toNat % 2 ^ (16 - b) + 1) * 2 ^ p ≤ 2 ^ 16 := calc
      _ ≤ 2 ^ (16 - b) * 2 ^ b := Nat.mul_le_mul hlt (Nat.pow_le_pow_right (by decide) hp)
      _ = 2 ^ 16 := by rw [← Nat.pow_add, Nat.sub_add_cancel hb]
    have hpos := Nat.two_pow_pos p
    rw [Nat.le_div_iff_mul_le hpos]
    rw [Nat.add_one_mul] at hscaled
    omega

/-- From its own source length a shape other than MS124 picks entry `k` for hardware entry `k`: for S10 that is N = H
(41_lut_transcoder.md R134). -/
theorem pickedIndex_self {p : Params} (hp : p.wellFormed = true) {sh : LutShape} (h : sh ≠ .ms124) (k : Nat) :
    pickedIndex p.tables sh (lutNeed p.tables sh) k = k := by
  cases sh with
  | ms124 => exact absurd rfl h
  | s10 sz half =>
    have hself := downsample_self (lutNeed_bounds hp (.s10 sz half)).1 k
    cases sz <;> exact hself
  | _ => rfl

/-- Settles O59: what the transcoder loses of each entry (O46) is within the tolerance, so LUTCMP finds no mismatch. -/
theorem roundTripComparesEqual : Obligations.RoundTripComparesEqual := by
  unfold Obligations.RoundTripComparesEqual
  intro sh s hp hms hmono hsrc hfits hlen hlen1 hsame hprec
  obtain ⟨t, u, henc, hdec, -, hclen, hkept⟩ := encodeThenDecodeLoss sh false s hp (.inr hsrc) hfits
  obtain ⟨htprec, htlen1, htparams⟩ := exec_compareInputs henc
  obtain ⟨huprec, hulen1, huparams⟩ := exec_compareInputs hdec
  have hcolumns : (s.columns sh).2.1 = s.clen0.toNat := by
    rw [hlen, State.columns, ← lutHwEntries_eq, ← lutNeed_eq, lutHwEntries_eq_lutNeed _ hms]
  have hlens : u.clen0 = u.clen1 := by
    rw [hulen1, htlen1, hlen1]
    exact BitVec.eq_of_toNat_eq (hclen.trans hcolumns)
  have hcap : u.clen0.toNat ≤ u.params.clutCap := by
    rw [hclen, huparams, htparams]
    exact hfits.2
  have hclose : ∀ i, i < u.clen0.toNat → u.EntriesClose i := fun i hi => by
    rw [hclen] at hi
    obtain ⟨e, he, -, hchannels⟩ := hkept i hi
    obtain ⟨hr, hg, hb⟩ := hchannels hmono
    have hpicked : e = u.readEntry .clut1 i := by
      obtain ⟨-, rfl⟩ | ⟨hident, -⟩ := he
      · rw [if_neg Bool.false_ne_true, hlen, State.columns, ← lutNeed_eq, pickedIndex_self hp hms,
          exec_readEntry_clut1 hdec, exec_readEntry_clut1 henc]
        exact (hsame i (hcolumns ▸ hi)).symm
      · exact absurd hident Bool.false_ne_true
    rw [State.EntriesClose, ← hpicked, huprec, htprec]
    have hwithin {x y : Chan} := channelClose_kept (x := x) (y := y) (keptBits_le sh) hprec
    exact ⟨hwithin hr, hwithin hg, hwithin hb⟩
  exact ⟨t, u, _, henc, hdec, execLutcmp_equal hcap (hlens ▸ hcap) hlens hclose, endsWith_storeCompare u _ _, rfl, rfl⟩

end Sys2Proof.Machine
end

section
/-! PROOFS. How an operation ends: with one code of its row of R241 (O15), what a code other than OK leaves (O16), and the
codec without a format (O23). -/

namespace Sys2Proof.Machine

/-! ### The codes of each operation (60_exceptions.md R241, R249) -/

theorem allowedCodes_lutencOf (ident : Bool) (sh : LutShape) : allowedCodes (lutencOf ident sh) = [0, 2] := by
  cases sh <;> rfl

theorem allowedCodes_lutdecOf (sh : LutShape) : allowedCodes (lutdecOf sh) = [0, 2] := by
  cases sh <;> rfl

/-- CTMDEC is the one row of R241 with the code UNSUPPORTED. -/
theorem eq_ctmdec_of_unsupported_allowed {i : Instr} (h : 1 ∈ allowedCodes i) : i = .ctmdec := by
  cases i with
  | ctmdec => rfl
  | _ => simp [allowedCodes] at h

/-- A state whose `STATUS` was finished with OK ended with code 0, whatever results were stored. -/
theorem EndsWith.ok {s t : State} (h : t.status = statusFinish codeOk s.status) : EndsWith s t 0 :=
  EndsWith.of_finish (code := codeOk) (by decide) h

/-- UNSUPPORTED is code 1. -/
theorem endsWith_unsupported (s : State) : EndsWith s (s.finish codeUnsupported) 1 :=
  EndsWith.of_finish (code := codeUnsupported) (by decide) rfl

/-- A fault ends with its own code. -/
theorem endsWith_raise (s : State) (f : OpFault) : EndsWith s (s.raise f) f.code.toNat :=
  EndsWith.of_raise rfl

/-- Each way an operation can end has a code of the operation's row of R241. -/
theorem exec_endsWith_allowed {i : Instr} {s t : State} (h : exec i s = .next t) :
    ∃ code ∈ allowedCodes i, EndsWith s t code := by
  cases i using Instr.cases_shape with
  | ctmenc =>
    rcases execCtmenc_cases h with rfl | ⟨_, _, _, _, -, -, rfl⟩
    · exact ⟨4, by decide, endsWith_raise s .unsupportedCombination⟩
    · exact ⟨0, by decide, .ok rfl⟩
  | ctmdec =>
    rcases execCtmdec_cases h with rfl | rfl | ⟨_, rfl⟩
    · exact ⟨1, by decide, endsWith_unsupported s⟩
    · exact ⟨6, by decide, endsWith_raise s .reservedEncoding⟩
    · exact ⟨0, by decide, .ok rfl⟩
  | lutenc ident sh =>
    rw [exec_lutencOf] at h
    rw [allowedCodes_lutencOf]
    rcases encodeLut_cases h with ⟨-, rfl⟩ | ⟨-, -, rfl⟩ | ⟨-, -, rfl⟩
    · exact ⟨2, by decide, endsWith_raise s (.sizeMismatch _ _)⟩
    · exact ⟨0, by decide, .ok rfl⟩
    · exact ⟨2, by decide, endsWith_raise s (misfit _ _ _)⟩
  | lutdec sh =>
    rw [exec_lutdecOf] at h
    rw [allowedCodes_lutdecOf]
    rcases decodeLut_cases h with ⟨-, rfl⟩ | ⟨-, -, -, rfl⟩ | ⟨-, -, _, _, rfl⟩
    · exact ⟨2, by decide, endsWith_raise s (.sizeMismatch _ _)⟩
    · exact ⟨0, by decide, .ok rfl⟩
    · exact ⟨2, by decide, endsWith_raise s (misfit _ _ _)⟩
  | toposel =>
    rcases execToposel_cases h with ⟨f, hf, rfl⟩ | ⟨_, -, rfl⟩
    · rcases select_error hf with rfl | rfl
      · exact ⟨4, by decide, endsWith_raise s .unsupportedCombination⟩
      · exact ⟨3, by decide, endsWith_raise s .incompatibleIndexedMode⟩
    · exact ⟨0, by decide, .ok rfl⟩
  | lutcmp =>
    rcases execLutcmp_cases h with ⟨e, a, rfl⟩ | ⟨_, rfl⟩ | rfl
    · exact ⟨2, by decide, endsWith_raise s (.sizeMismatch e a)⟩
    · exact ⟨0, by decide, .ok rfl⟩
    · exact ⟨0, by decide, .ok rfl⟩

/-- Every operation answers a next state (70_reset_and_hazards.md R266). -/
theorem exec_terminates (i : Instr) (s : State) : ∃ t, exec i s = .next t := by
  obtain ⟨t, -, h, -⟩ := exec_sameResult s s i
  exact ⟨t, h⟩

/-- Settles O15: the operation answers a state, that state has an allowed code, and no state has two. -/
theorem everyOperationEndsWithOneAllowedCode : Obligations.EveryOperationEndsWithOneAllowedCode := by
  unfold Obligations.EveryOperationEndsWithOneAllowedCode
  intro i s
  obtain ⟨t, h⟩ := exec_terminates i s
  obtain ⟨code, hallowed, hcode⟩ := exec_endsWith_allowed h
  exact ⟨t, code, h, hallowed, hcode, fun _ hc => hc.unique hcode⟩

/-! ### Outcomes other than OK (60_exceptions.md R245, R253) -/

/-- What does not end OK is a fault or UNSUPPORTED: every other way to end stores results with the code OK. -/
theorem exec_notOk_cases {i : Instr} {s t : State} (h : exec i s = .next t) (h0 : ¬EndsWith s t 0) :
    (∃ f, t = s.raise f) ∨ t = s.finish codeUnsupported := by
  rcases exec_cases h with hf | hu | ⟨_, _, _, _, rfl⟩ | ⟨_, rfl⟩ | ⟨_, _, -, rfl⟩ | ⟨_, -, rfl⟩ | ⟨_, -, rfl⟩ |
    ⟨_, rfl⟩ | rfl
  · exact .inl hf
  · exact .inr hu
  all_goals exact absurd (EndsWith.ok rfl) h0

/-- A fault sets the sticky bit of its code. -/
theorem statusSticky_raise_code (s : State) (f : OpFault) :
    (statusSticky (s.raise f).status).getLsbD f.code.toNat = true := by
  have := f.code_range
  rw [State.raise_status, statusSticky_raise]
  simp [show f.code.toNat < 8 by omega]

/-- Settles O16: what does not end OK is a raise, whose frame is by definition, or UNSUPPORTED. -/
theorem outcomesOtherThanOkLeaveResultsWhole : Obligations.OutcomesOtherThanOkLeaveResultsWhole := by
  unfold Obligations.OutcomesOtherThanOkLeaveResultsWhole
  intro i s t code h hcode hne
  have herr : code ≠ 2 → t.errExpected = s.errExpected ∧ t.errActual = s.errActual :=
    fun h2 => exec_errRegisters h fun hc => h2 (hcode.unique hc)
  rcases exec_notOk_cases h fun h0 => hne (hcode.unique h0) with ⟨f, rfl⟩ | rfl
  · obtain rfl := hcode.unique (endsWith_raise s f)
    have := f.code_range
    exact ⟨rfl, herr, fun _ => statusSticky_raise_code s f, fun h1 => by omega⟩
  · obtain rfl := hcode.unique (endsWith_unsupported s)
    exact ⟨rfl, herr, fun h1 => absurd rfl h1, fun _ => statusSticky_finish _ _⟩

/-! ### The codec without a format (60_exceptions.md R244, R253) -/

theorem execCtmenc_noFormat {s : State} (h : s.NoFormat) :
    exec .ctmenc s = .next (s.raise .unsupportedCombination) := by
  cases hp : s.profile? with
  | none => simp only [exec, execCtmenc, hp]
  | some p => simp only [exec, execCtmenc, hp, h p hp]

/-- With no format or no readback, CTMDEC answers before it looks at `EC`. -/
theorem execCtmdec_unsupported {s : State}
    (h : s.NoFormat ∨ ∃ p, s.params.profiles[s.gen.toNat]? = some p ∧ p.readback = false) :
    exec .ctmdec s = .next (s.finish codeUnsupported) := by
  rcases h with hn | ⟨p, hp, hr⟩
  · cases hp : s.profile? with
    | none => simp only [exec, execCtmdec, hp]
    | some p => simp only [exec, execCtmdec, hp, hn p hp, ite_self]
  · have hp' : s.profile? = some p := hp
    simp only [exec, execCtmdec, hp', hr, Bool.false_eq_true, if_false]

/-- Settles O23: CTMENC raises, CTMDEC reports UNSUPPORTED, and no other operation's codes have it. -/
theorem codecWithoutAFormat : Obligations.CodecWithoutAFormat := by
  unfold Obligations.CodecWithoutAFormat
  refine ⟨fun s h => ⟨_, execCtmenc_noFormat h, onlyStatus_raise s ⟨rfl, rfl⟩⟩,
    fun s h => ⟨_, execCtmdec_unsupported h, ⟨endsWith_unsupported s, rfl⟩, statusSticky_finish _ _⟩,
    fun i s t h h1 => ?_⟩
  obtain ⟨code, hallowed, hcode⟩ := exec_endsWith_allowed h
  obtain rfl := hcode.unique h1
  exact eq_ctmdec_of_unsupported_allowed hallowed

end Sys2Proof.Machine
end
